-- ==== Sys2Proof/Word.lean ====
section
/-! DEFINITION. The words of DACX0501-CORE: bytes, register words, operand and result words, the
two-valued gain and divider, and a word as it stands at the block's input. -/

namespace Sys2Proof

/-- A byte on the two-wire bus, a command byte, a field id (R8). -/
abbrev Byte := BitVec 8

/-- A 16-bit chip register word (R8, R18). -/
abbrev U16 := BitVec 16

/-- The 32-bit argument of a request (R51). -/
abbrev U32 := BitVec 32

/-- The 64-bit result of a response (R56). -/
abbrev U64 := BitVec 64

/-- A value of {1, 2}: what GAIN and DIV hold (R12, R13). -/
inductive Factor where
  | one
  | two
  deriving DecidableEq, Repr

/-- A word at the block's input: a 40-bit request (R51), or one of the bus frames of the opcode table
(R58, R59) standing alone (log 3). -/
inductive PortWord where
  | req (w : BitVec 40)
  | w24 (w : BitVec 24)
  | r8 (w : BitVec 8)
  deriving DecidableEq, Repr

end Sys2Proof
end

