-- ==== Sys2Proof/Config.lean ====
section
/-! DEFINITION. What an instance of the block fixes (R5): the resolution N and the bus address ADDR, legal by
construction; the parameters that have one value for this hardware; and the model's one free value. -/

namespace Sys2Proof

/-- The parameters an instance is built with (R5). They are not state: no step writes them.
An address outside 0x48..0x4B or an N outside 1..16 has no instance (R5, R7, U13). -/
structure Config where
  /-- `N`, the width of a code (R5, R15). -/
  n : Nat
  /-- `ADDR`, the bus address of the chip (R5, R7). -/
  addr : Byte
  n_legal : 1 ≤ n ∧ n ≤ 16
  addr_legal : 0x48#8 ≤ addr ∧ addr ≤ 0x4B#8
  deriving DecidableEq, Repr

/-- Building an instance's parameters from raw values: refused outside the legal ranges (R7, U13). -/
def Config.build? (n : Nat) (addr : Byte) : Option Config :=
  if h : (1 ≤ n ∧ n ≤ 16) ∧ (0x48#8 ≤ addr ∧ addr ≤ 0x4B#8) then some ⟨n, addr, h.1, h.2⟩ else none

/-- This hardware: N = 16 (R5, R28). DESIGN CHOICE (log 5): ADDR is OPEN in the spec (D19); 0x48 is the
address its examples use. -/
def Config.thisHardware : Config := ⟨16, 0x48#8, by decide, by decide⟩

/-- `VREF_DEFAULT`, 2.5 V (R5, R11). -/
def Config.vrefDefault : Rat := mkRat 5 2

/-- `GAIN_DEFAULT` (R5, R12). -/
def Config.gainDefault : Factor := .two

/-- `DIV_DEFAULT` (R5, R13). -/
def Config.divDefault : Factor := .one

/-- `VFRAC`, the fraction bits of a voltage operand (R5, R54). -/
def Config.vfrac : Nat := 16

/-- `RFRAC`, the fraction bits of a voltage result (R5, R57). -/
def Config.rfrac : Nat := 33

/-- FREE VALUE (log 8): the result word of a voltage that R57's 64-bit format cannot hold.
Reachable only with N = 1; nothing constrains it. -/
opaque Config.freeVoltWord : Rat → U64

end Sys2Proof
end

