-- ==== Sys2Proof/Syntax.lean ====
section
/-! DEFINITION. The instructions: one constructor per row of spec/opcode_table.json. The first 17 are the request
operations (R52), the rest the bus frames (R58, R59, R60). -/

namespace Sys2Proof

/-- The nine named register fields of R61. -/
inductive Field where
  | devid
  | dacPwdwn
  | refPwdwn
  | buffGain
  | refDiv
  | softReset
  | ldac
  | refAlarm
  | data
  deriving DecidableEq, Repr

/-- The instructions. Argument bits an operation ignores (R53) are no part of its term. A field id is kept raw:
the operation itself tests it (R81 step 1, R82 step 1). A voltage operand is its Q16.16 word (R54). -/
inductive Instr where
  | fget (fid : Byte) (w : U16)
  | fset (fid : Byte) (val : Byte) (w : U16)
  | write (cmd : Byte) (value : U16)
  | readraw (cmd : Byte)
  | ldac
  | sreset
  | v2c (v : U32)
  | c2v (c : U16)
  | setv (v : U32)
  | getv
  | setgain (g : Byte)
  | setdiv (g : Byte)
  | setvref (v : U32)
  | dacpd (b : Bool)
  | refpd (b : Bool)
  | shutdown
  | init
  | w24Noop (value : U16)
  | w24Devid (value : U16)
  | w24Sync (value : U16)
  | w24Config (value : U16)
  | w24Gain (value : U16)
  | w24Trigger (value : U16)
  | w24Status (value : U16)
  | w24Dac (value : U16)
  | r8Noop
  | r8Devid
  | r8Sync
  | r8Config
  | r8Gain
  | r8Trigger
  | r8Status
  | r8Dac
  | w24SoftReset
  | w24Ldac
  | w24ShutdownAll
  deriving DecidableEq, Repr

end Sys2Proof
end

