-- ==== Sys2Proof/Machine/Fields.lean ====
section
/-! DEFINITION. The register encoder's pure part: command bytes (R18), the field table (R61), get and set (R80),
the register images the block builds (R83 to R85). -/

namespace Sys2Proof

/-! ### Command bytes (R18: "constants the core must reproduce exactly") -/

def Cmd.noop : Byte := 0x00#8
def Cmd.devid : Byte := 0x01#8
def Cmd.sync : Byte := 0x02#8
def Cmd.config : Byte := 0x03#8
def Cmd.gain : Byte := 0x04#8
def Cmd.trigger : Byte := 0x05#8
def Cmd.status : Byte := 0x07#8
def Cmd.dac : Byte := 0x08#8

/-! ### The field table (R61) -/

/-- The command byte of the register a field lies in (R19 to R24, R61). -/
def Field.cmd : Field → Byte
  | .devid => Cmd.devid
  | .dacPwdwn => Cmd.config
  | .refPwdwn => Cmd.config
  | .buffGain => Cmd.gain
  | .refDiv => Cmd.gain
  | .softReset => Cmd.trigger
  | .ldac => Cmd.trigger
  | .refAlarm => Cmd.status
  | .data => Cmd.dac

/-- A field's shift (R61). -/
def Field.shift : Field → Nat
  | .devid => 12
  | .dacPwdwn => 0
  | .refPwdwn => 8
  | .buffGain => 0
  | .refDiv => 8
  | .softReset => 0
  | .ldac => 4
  | .refAlarm => 0
  | .data => 0

/-- A field's width (R61). -/
def Field.width : Field → Nat
  | .devid => 3
  | .dacPwdwn => 1
  | .refPwdwn => 1
  | .buffGain => 1
  | .refDiv => 1
  | .softReset => 4
  | .ldac => 1
  | .refAlarm => 1
  | .data => 16

/-- A field's id (R61). -/
def Field.fid : Field → Byte
  | .devid => 0x10#8
  | .dacPwdwn => 0x30#8
  | .refPwdwn => 0x31#8
  | .buffGain => 0x40#8
  | .refDiv => 0x41#8
  | .softReset => 0x50#8
  | .ldac => 0x51#8
  | .refAlarm => 0x70#8
  | .data => 0x80#8

/-- The field an id names; every other id is illegal (R61, R62). -/
def Field.ofFid? (fid : Byte) : Option Field :=
  match fid with
  | 0x10#8 => some .devid
  | 0x30#8 => some .dacPwdwn
  | 0x31#8 => some .refPwdwn
  | 0x40#8 => some .buffGain
  | 0x41#8 => some .refDiv
  | 0x50#8 => some .softReset
  | 0x51#8 => some .ldac
  | 0x70#8 => some .refAlarm
  | 0x80#8 => some .data
  | _ => none

/-! ### The field functions (R80) -/

/-- The unshifted mask `2^k - 1` (R80). -/
def fieldMask (k : Nat) : U16 := BitVec.ofNat 16 (2 ^ k - 1)

/-- `get(s, k, w)` (R80). -/
def getField (s k : Nat) (w : U16) : U16 := (w >>> s) &&& fieldMask k

/-- `set(s, k, w, x)` (R80): `x` is cut to the field's width, every bit of `w` outside the field stays. -/
def setField (s k : Nat) (w x : U16) : U16 :=
  (w &&& ~~~(fieldMask k <<< s)) ||| ((x &&& fieldMask k) <<< s)

/-- Extracting a named field (R81 step 3, R86). -/
def Field.get (f : Field) (w : U16) : U16 := getField f.shift f.width w

/-- Replacing a named field (R82 step 3). -/
def Field.set (f : Field) (w x : U16) : U16 := setField f.shift f.width w x

/-- The bits a field occupies in its register's word (R61, last column). -/
def Field.maskInWord (f : Field) : U16 := fieldMask f.width <<< f.shift

/-- The bits of a named register's word that belong to no named field (R19 to R24). -/
def reservedMask (cmd : Byte) : U16 :=
  match cmd with
  | 0x01#8 => 0x8FFF#16
  | 0x03#8 => 0xFEFE#16
  | 0x04#8 => 0xFEFE#16
  | 0x05#8 => 0xFFE0#16
  | 0x07#8 => 0xFFFE#16
  | 0x08#8 => 0x0000#16
  | _ => 0xFFFF#16

/-! ### Gain and divider coding (R84, the spec's D7; log 10) -/

/-- The number a gain or divider setting stands for (R12, R13). -/
def Factor.val : Factor → Nat
  | .one => 1
  | .two => 2

/-- `gain_enc` (R84): 1 is coded 0, 2 is coded 1. -/
def gainEnc : Factor → U16
  | .one => 0x0000#16
  | .two => 0x0001#16

/-- `gain_dec` (R84) on the field's one bit. -/
def gainDec (b : Bool) : Factor := if b then .two else .one

/-- The setting a request's number names, if it is 1 or 2 (R140 step 1, R141 step 1). -/
def Factor.ofByte? (g : Byte) : Option Factor :=
  match g with
  | 0x01#8 => some .one
  | 0x02#8 => some .two
  | _ => none

/-- A bit as a register word: the operand of `set` for a one-bit field (R143, R144). -/
def bitWord (b : Bool) : U16 := if b then 0x0001#16 else 0x0000#16

/-! ### Register images built from nothing (R83 to R85) -/

/-- `PACK_CONFIG` (R83). -/
def packConfig (dacPd refPd : Bool) : U16 := (bitWord refPd <<< 8) ||| bitWord dacPd

/-- `PACK_GAIN` (R84). -/
def packGain (g d : Factor) : U16 := (gainEnc d <<< 8) ||| gainEnc g

/-- `PACK_TRIGGER` (R85). -/
def packTrigger (sr : BitVec 4) (ldac : Bool) : U16 := (bitWord ldac <<< 4) ||| sr.setWidth 16

/-- `W_SHUTDOWN` (R83). -/
def wShutdown : U16 := packConfig true true

/-- `W_SRESET` (R85). -/
def wSreset : U16 := packTrigger 0b1010#4 false

/-- `W_LDAC` (R85). -/
def wLdac : U16 := packTrigger 0x0#4 true

end Sys2Proof
end

