-- ==== Sys2Proof/Machine/Operands.lean ====
section
/-! DEFINITION. The operand formats of the request word (R53, R54) and the byte order of a register value on the
bus (R30). -/

namespace Sys2Proof

/-- `op`, bits 39:32 of a request (R51). -/
def opOf (w : BitVec 40) : Byte := w.extractLsb' 32 8

/-- `arg`, bits 31:0 of a request (R51). -/
def argOf (w : BitVec 40) : U32 := w.extractLsb' 0 32

/-- Format AC: the code, `arg[15:0]` (R53). -/
def argCode (arg : U32) : U16 := arg.extractLsb' 0 16

/-- Format AW: the command byte, `arg[23:16]` (R53). -/
def argCmd (arg : U32) : Byte := arg.extractLsb' 16 8

/-- Format AW: the value, `arg[15:0]` (R53). -/
def argValue (arg : U32) : U16 := arg.extractLsb' 0 16

/-- Format AF: the field id, `arg[31:24]` (R53). -/
def argFid (arg : U32) : Byte := arg.extractLsb' 24 8

/-- Format AF: the field value, `arg[23:16]` (R53). -/
def argVal (arg : U32) : Byte := arg.extractLsb' 16 8

/-- Format AF: the register word, `arg[15:0]` (R53). -/
def argWord (arg : U32) : U16 := arg.extractLsb' 0 16

/-- Format AG: the gain or divider, `arg[7:0]` (R53). -/
def argFactor (arg : U32) : Byte := arg.extractLsb' 0 8

/-- Format AB: `arg[0]` (R53). -/
def argBit (arg : U32) : Bool := arg.getLsbD 0

/-- Format AV: the voltage an operand word stands for, `sint(arg) / 2^16` (R53, R54). -/
def volt (arg : U32) : Rat := mkRat arg.toInt (2 ^ Config.vfrac)

/-- The byte of a register value that travels first (R30). -/
def hiByte (v : U16) : Byte := v.extractLsb' 8 8

/-- The byte of a register value that travels second (R30). -/
def loByte (v : U16) : Byte := v.extractLsb' 0 8

/-- A register value from its two bytes in the order received (R30). -/
def fromBytes (hi lo : Byte) : U16 := hi ++ lo

end Sys2Proof
end

