-- ==== Sys2Proof/Machine/State.lean ====
section
/-! DEFINITION. The state of the block (R10, R16, R27, R28), the inputs and outputs of a run (R44, R56, R211), the
ways a step can stop, and the state after reset. -/

namespace Sys2Proof.Machine

/-! ### The bus transport (R36, R44) -/

/-- A transport error. Its content is opaque to the block and passed through unmodified (R36, R170). -/
inductive TransportError where
  /-- An error value of the transport; the number is its whole opaque content (log 13). -/
  | opaqueError (code : Nat)
  /-- A read answered fewer than two bytes (R33). -/
  | shortRead
  deriving DecidableEq, Repr

/-- What a transport call returns (R36): `Ok` with bytes (none matter for a write) or `Err`. -/
inductive Reply where
  | ok (bytes : List Byte)
  | err (e : TransportError)
  deriving DecidableEq, Repr

/-- A transport call with its arguments (R36). -/
inductive TxCall where
  | writeBytes (address : Byte) (bytes : List Byte)
  | writeThenRead (address : Byte) (bytes : List Byte) (readCount : Nat)
  deriving DecidableEq, Repr

/-- One call of the bus trace (R44). No reply: reset cut the call short (R190; log 11). -/
structure TraceEntry where
  call : TxCall
  reply : Option Reply
  deriving DecidableEq, Repr

/-! ### The response word (R56) -/

/-- The status of a response (R56, R170). -/
inductive Status where
  | ok
  | terr
  | illegal
  deriving DecidableEq, Repr

/-- RSP (R56). -/
structure Response where
  status : Status
  result : U64
  err : Option TransportError
  deriving DecidableEq, Repr

/-! ### The Device State (R10) -/

/-- The four registers of the Device State (R10 to R14). -/
structure DeviceState where
  /-- VREF, an exact number of volts (R11). -/
  vref : Rat
  /-- GAIN (R12). -/
  gain : Factor
  /-- DIV (R13). -/
  div : Factor
  /-- INTREF (R14). -/
  intref : Bool
  deriving DecidableEq, Repr

/-- The Device State after hardware reset (R28, R190; INTREF by D10, log 9). -/
def DeviceState.reset : DeviceState := ⟨Config.vrefDefault, Config.gainDefault, Config.divDefault, false⟩

/-! ### An operation in progress (R27) -/

/-- A write of one Device State register: a step `ST.X <- v` of an operation's rule. -/
inductive DevWrite where
  | vref (v : Rat)
  | gain (g : Factor)
  | div (d : Factor)
  | intref (b : Bool)
  deriving DecidableEq, Repr

/-- One numbered step of an operation's rule. REG is the transient register (R16). -/
inductive Micro where
  /-- REG gets a constant built by the block. -/
  | load (v : U16)
  /-- `REG <- RegRead(cmd)` (R33). -/
  | read (cmd : Byte)
  /-- `REG <- set(s, k, REG, x)` (R80). -/
  | modify (f : Field) (x : U16)
  /-- `RegWrite(cmd, REG)` (R34). -/
  | write (cmd : Byte)
  /-- `ST.X <- v`. -/
  | mirror (w : DevWrite)
  deriving DecidableEq, Repr

/-- What an operation returns when its steps are done (R56). -/
inductive Ret where
  /-- A value known when the operation starts. -/
  | const (w : U64)
  /-- REG, zero-extended. -/
  | reg
  /-- The voltage REG stands for as a DAC-DATA word (R131 steps 2, 3). -/
  | volt
  deriving DecidableEq, Repr

/-- Idle, or an operation that waits for the transport: REG, the steps still to run (the first is the call in
progress) and what to return (R27, R206). -/
inductive Phase where
  | idle
  | busy (reg : U16) (steps : List Micro) (ret : Ret)
  deriving DecidableEq, Repr

/-! ### The state -/

/-- Everything the spec gives the block, and the inputs and outputs of a run. -/
structure State where
  /-- The parameters of the instance (R5); no step writes them. -/
  cfg : Config
  /-- The Device State (R10). -/
  dev : DeviceState
  /-- The operation in progress (R27). -/
  phase : Phase
  /-- The reset input is asserted (R190; log 11). -/
  resetLine : Bool
  /-- The words presented and not yet accepted, oldest first (R51, R203). -/
  requests : List PortWord
  /-- The transport's replies not yet consumed, oldest first (R36, R211; log 2). -/
  answers : List Reply
  /-- The bus trace, oldest first (R44): the calls answered, and those that reset cut short. A call not yet answered is in
  `phase` and not here (log 22). -/
  trace : List TraceEntry
  /-- The responses given, oldest first (R56). -/
  responses : List Response
  deriving DecidableEq, Repr

/-- Why the machine stops with a fault: never. Every error the spec describes is a response and a next state
(R170 to R173), so this type has no constructor. -/
inductive Fault where
  deriving DecidableEq, Repr

/-- Why a step has no meaning. -/
inductive Refusal where
  /-- An instruction that has no meaning yet, by its mnemonic. Raised by an arm of `exec` only; no arm raises it. Safe. -/
  | notModelled (mnemonic : String)
  /-- V2C or SETV while VREF is not positive: the spec gives no code and no frame and says a model refuses (R134, U1).
  Raised by `execV2c` and `execSetv`. Safe: nothing can be proved about what such hardware does (log 7). -/
  | nonPositiveReference
  deriving DecidableEq, Repr

/-- What a meaning answers. -/
abbrev Result := Host.Outcome State Fault Refusal

/-- An instance right after reset, built with given parameters (R28, R190), nothing presented. -/
def State.resetWith (cfg : Config) : State :=
  ⟨cfg, DeviceState.reset, .idle, false, [], [], [], []⟩

/-- This hardware right after reset (R28; ADDR by log 5). -/
def State.reset : State := State.resetWith Config.thisHardware

end Sys2Proof.Machine
end

