-- ==== Sys2Proof/Machine/Convert.lean ====
section
/-! DEFINITION. The conversion engine's pure functions (R120 to R127), the voltage result (R57), their integer form
(R132) and their form under a float format (R135). All arithmetic is on exact rationals (R8, D1; log 6). -/

namespace Sys2Proof.Machine

/-- Full scale, `VREF * GAIN / DIV` (R121). -/
def DeviceState.fullscale (d : DeviceState) : Rat := d.vref * d.gain.val / d.div.val

/-- One code step, `fullscale / 2^N` (R121). -/
def DeviceState.lsb (n : Nat) (d : DeviceState) : Rat := d.fullscale / 2 ^ n

/-- The voltage clamp (R122 step 2). -/
def clampVolt (fs v : Rat) : Rat := if v < 0 then 0 else if fs ≤ v then fs else v

/-- The scaled value before rounding (R122 step 3). -/
def scaleVolt (n : Nat) (d : DeviceState) (vc : Rat) : Rat := vc * 2 ^ n * d.div.val / d.vref / d.gain.val

/-- `v2c` (R122): clamp, scale, round half up (R123), final clamp (R124). A meaning uses it only when VREF is
positive (R134). -/
def v2c (n : Nat) (d : DeviceState) (v : Rat) : Nat :=
  let vc := clampVolt d.fullscale v
  let x := scaleVolt n d vc
  let r := (x + mkRat 1 2).floor
  min r.toNat (2 ^ n - 1)

/-- `c2v` (R127): total, for every VREF and every code the operand carries (D14, D23). -/
def c2v (n : Nat) (d : DeviceState) (c : Nat) : Rat := (c : Rat) / 2 ^ n * d.vref / d.div.val * d.gain.val

/-- `toword` (R63, R125): the code left-aligned in the DAC-DATA word. -/
def toword (n : Nat) (c : Nat) : U16 := BitVec.ofNat 16 c <<< (16 - n)

/-- `fromword` (R63, R126): the low `16 - N` bits are discarded. -/
def fromword (n : Nat) (w : U16) : Nat := (w >>> (16 - n)).toNat

/-- `enc_volt` (R57): `V * 2^33` as a 64-bit two's-complement number, when it is one; otherwise a free value
(log 8). -/
def encVolt (v : Rat) : U64 :=
  let x := v * 2 ^ Config.rfrac
  if x.den = 1 ∧ -(2 ^ 63 : Int) ≤ x.num ∧ x.num < (2 ^ 63 : Int) then BitVec.ofInt 64 x.num else Config.freeVoltWord v

/-! ### The integer form (R132) -/

/-- `v2c` on integers: `vr = VREF * 2^16`, `vi = v * 2^16` (R132). -/
def v2cInt (n : Nat) (vr : Int) (g d : Factor) (vi : Int) : Nat :=
  if vi < 0 then 0
  else if vr * g.val ≤ vi * d.val then 2 ^ n - 1
  else min ((2 * vi * 2 ^ n * d.val + vr * g.val) / (2 * vr * g.val)).toNat (2 ^ n - 1)

/-- `c2v(c) * 2^33` on integers (R132). -/
def c2vInt (n : Nat) (vr : Int) (g d : Factor) (c : Nat) : Int := c * vr * g.val * 2 ^ (17 - n) / d.val

/-! ### Under a float format (R135): `rnd` is the format's rounding, applied after every operation, left to right -/

/-- R122 with step 3 and the addition of one half computed in a float format (R135). -/
def v2cNum (rnd : Rat → Rat) (n : Nat) (d : DeviceState) (v : Rat) : Nat :=
  let vc := clampVolt d.fullscale v
  let x := rnd (rnd (rnd (rnd (vc * 2 ^ n) * d.div.val) / d.vref) / d.gain.val)
  min (rnd (x + mkRat 1 2)).floor.toNat (2 ^ n - 1)

/-- R127 computed in a float format (R135). -/
def c2vNum (rnd : Rat → Rat) (n : Nat) (d : DeviceState) (c : Nat) : Rat :=
  rnd (rnd (rnd (rnd ((c : Rat) / 2 ^ n) * d.vref) / d.div.val) * d.gain.val)

end Sys2Proof.Machine
end

