-- ==== Sys2Proof/Machine/Flags.lean ====
section
/-! DEFINITION. The block's only flag, INTREF (R14), and the codes of a response's status (R56, R170). -/

namespace Sys2Proof.Machine

/-- INTREF after the reference power-down bit has been written with `refPwdwn` (R14: `ref_pwdwn == 0`; C2: it is
assigned, not toggled). -/
def intrefAfter (refPwdwn : Bool) : Bool := !refPwdwn

/-- A status's 8-bit code (R56, R170). -/
def Status.code : Status → BitVec 8
  | .ok => 0x00#8
  | .terr => 0x01#8
  | .illegal => 0x02#8

end Sys2Proof.Machine
end

