-- ==== Sys2Proof/Machine/Ops.lean ====
section
/-! DEFINITION. The named operations the meanings share: writing a Device State register, the bus transactions RegRead
and RegWrite (R33, R34), ending an operation (R56), with an error (R172, R173) or without, running an operation's
steps, and hardware reset (R190). -/

namespace Sys2Proof.Machine

/-! ### The Device State -/

/-- `ST.X <- v` (R8). -/
def DeviceState.apply (w : DevWrite) (d : DeviceState) : DeviceState :=
  match w with
  | .vref v => { d with vref := v }
  | .gain g => { d with gain := g }
  | .div k => { d with div := k }
  | .intref b => { d with intref := b }

/-- `ST.X <- v` on the state: visible to every later step (R40 item 3). -/
def State.mirror (w : DevWrite) (s : State) : State := { s with dev := s.dev.apply w }

/-! ### Ending an operation -/

/-- The one way an operation ends: its response is produced and the block is idle (R56, R172 item 4, R179). -/
def State.respond (r : Response) (s : State) : State := { s with phase := .idle, responses := s.responses ++ [r] }

/-- `return v`: status OK (R8, R56). -/
def State.respondOk (result : U64) (s : State) : State := s.respond ⟨.ok, result, none⟩

/-- `raise TransportError(e)`: status TERR, result 0, the error unmodified; no later step runs and nothing is rolled
back (R172). -/
def State.raiseTransport (e : TransportError) (s : State) : State := s.respond ⟨.terr, 0, some e⟩

/-- `raise Illegal`: status ILLEGAL, result 0, no other change (R173). -/
def State.raiseIllegal (s : State) : State := s.respond ⟨.illegal, 0, none⟩

/-! ### Bus transactions -/

/-- The call of a register write: three bytes, command first, then high byte, then low byte (R31, R34, R58). -/
def writeCall (addr cmd : Byte) (v : U16) : TxCall := .writeBytes addr [cmd, hiByte v, loByte v]

/-- The call of a register read: one byte out, two bytes back (R32, R33, R59). -/
def readCall (addr cmd : Byte) : TxCall := .writeThenRead addr [cmd] 2

/-- One blocking call: it takes the transport's next reply and is recorded with it (R36, R44). `none`: the call has
not returned (R206). DESIGN CHOICE (log 22): a call enters the trace when it is answered, so one not yet answered is not in
the trace; the spec gives answered calls only. -/
def transact (call : TxCall) (s : State) : Option (Reply × State) :=
  match s.answers with
  | [] => none
  | r :: rest => some (r, { s with answers := rest, trace := s.trace ++ [⟨call, some r⟩] })

/-- What a reply means to RegRead: `Err` first, then the length (R33 steps 2 to 4, R178); bytes past the second are
not used (D20; log 12). -/
def Reply.readResult : Reply → Except TransportError U16
  | .err e => .error e
  | .ok (hi :: lo :: _) => .ok (fromBytes hi lo)
  | .ok [_] => .error .shortRead
  | .ok [] => .error .shortRead

/-- What a reply means to RegWrite (R34 step 2). -/
def Reply.writeResult : Reply → Except TransportError Unit
  | .err e => .error e
  | .ok _ => .ok ()

/-- `RegRead(cmd)` (R33). -/
def regRead (cmd : Byte) (s : State) : Option (Except TransportError U16 × State) :=
  match transact (readCall s.cfg.addr cmd) s with
  | none => none
  | some (r, s') => some (r.readResult, s')

/-- `RegWrite(cmd, v)` (R34). -/
def regWrite (cmd : Byte) (v : U16) (s : State) : Option (Except TransportError Unit × State) :=
  match transact (writeCall s.cfg.addr cmd v) s with
  | none => none
  | some (r, s') => some (r.writeResult, s')

/-! ### Running an operation -/

/-- The result an operation returns (R56), REG being what its steps left. -/
def Ret.value (n : Nat) (d : DeviceState) (reg : U16) : Ret → U64
  | .const w => w
  | .reg => reg.setWidth 64
  | .volt => encVolt (c2v n d (fromword n reg))

/-- The operation waits for the call that is the first of `steps` (R206). -/
def State.wait (reg : U16) (steps : List Micro) (ret : Ret) (s : State) : State := { s with phase := .busy reg steps ret }

/-- Run an operation's steps in order (R8, R40) until it ends or a transport call has not returned. -/
def runSteps : List Micro → U16 → Ret → State → State
  | [], reg, ret, s => s.respondOk (ret.value s.cfg.n s.dev reg)
  | .load v :: ms, _, ret, s => runSteps ms v ret s
  | .modify f x :: ms, reg, ret, s => runSteps ms (f.set reg x) ret s
  | .mirror w :: ms, reg, ret, s => runSteps ms reg ret (s.mirror w)
  | .read cmd :: ms, reg, ret, s =>
    match regRead cmd s with
    | none => s.wait reg (.read cmd :: ms) ret
    | some (.ok w, s') => runSteps ms w ret s'
    | some (.error e, s') => s'.raiseTransport e
  | .write cmd :: ms, reg, ret, s =>
    match regWrite cmd reg s with
    | none => s.wait reg (.write cmd :: ms) ret
    | some (.ok _, s') => runSteps ms reg ret s'
    | some (.error e, s') => s'.raiseTransport e

/-- Start an operation. REG starts as the integer 0 (R87 (a); log 16). -/
def State.start (steps : List Micro) (ret : Ret) (s : State) : State := runSteps steps 0 ret s

/-! ### Step sequences that several operations share -/

/-- The body of `REFPD b` (R144 steps 1 to 4; R103 steps 4a to 4d; R160 steps 2a to 2d). -/
def refpdSteps (b : Bool) : List Micro :=
  [.read Cmd.config, .modify .refPwdwn (bitWord b), .write Cmd.config, .mirror (.intref (intrefAfter b))]

/-- The body of SRESET (R103 steps 1 to 4), INTREF being what it holds when SRESET starts (R104). -/
def sresetSteps (intref : Bool) : List Micro :=
  [.load wSreset, .write Cmd.trigger, .mirror (.gain Config.gainDefault), .mirror (.div Config.divDefault)] ++
    (if intref then [] else refpdSteps true)

/-- A read-modify-write of one field of a register (R140 steps 2 to 4, R141 steps 2 to 4, R143 steps 1 to 3). -/
def rmwSteps (f : Field) (x : U16) : List Micro := [.read f.cmd, .modify f x, .write f.cmd]

/-! ### Hardware reset -/

/-- The transport call an operation in progress waits for (R206). -/
def Phase.pendingCall? (addr : Byte) : Phase → Option TxCall
  | .busy _ (.read cmd :: _) _ => some (readCall addr cmd)
  | .busy reg (.write cmd :: _) _ => some (writeCall addr cmd reg)
  | _ => none

/-- Hardware reset (R190): the operation in progress ends without a response, no call is made, the Device State takes
its defaults, the block is idle. A call cut short, which the trace did not hold while it was pending (log 22), enters it here
without a reply (U18; log 11). -/
def State.hardReset (s : State) : State :=
  { s with
    dev := DeviceState.reset
    phase := .idle
    resetLine := false
    trace := s.trace ++ ((s.phase.pendingCall? s.cfg.addr).map fun c => ⟨c, none⟩).toList }

end Sys2Proof.Machine
end

