-- ==== Sys2Proof/Machine/Access.lean ====
section
/-! DEFINITION. The register access family: WRITE, READRAW, LDAC, SRESET (R100 to R104). -/

namespace Sys2Proof.Machine

/-- WRITE (R100): no validation of `cmd`, no Device State change. -/
def execWrite (cmd : Byte) (value : U16) (s : State) : Result := .next (s.start [.load value, .write cmd] (.const 0))

/-- READRAW (R101). -/
def execReadraw (cmd : Byte) (s : State) : Result := .next (s.start [.read cmd] .reg)

/-- LDAC (R102). -/
def execLdac (s : State) : Result := .next (s.start [.load wLdac, .write Cmd.trigger] (.const 0))

/-- SRESET (R103, R104). -/
def execSreset (s : State) : Result := .next (s.start (sresetSteps s.dev.intref) (.const 0))

end Sys2Proof.Machine
end

