-- ==== Sys2Proof/Machine/Conversion.lean ====
section
/-! DEFINITION. The conversion family: V2C, C2V, SETV, GETV (R128 to R131, R134). -/

namespace Sys2Proof.Machine

/-- V2C (R128). With VREF not positive the rules give no code (R134; log 7). -/
def execV2c (v : U32) (s : State) : Result :=
  if s.dev.vref ≤ 0 then .refused .nonPositiveReference
  else .next (s.respondOk (BitVec.ofNat 64 (v2c s.cfg.n s.dev (volt v))))

/-- C2V (R129). -/
def execC2v (c : U16) (s : State) : Result := .next (s.respondOk (encVolt (c2v s.cfg.n s.dev c.toNat)))

/-- SETV (R130). With VREF not positive the rules give no frame (R134; log 7). -/
def execSetv (v : U32) (s : State) : Result :=
  if s.dev.vref ≤ 0 then .refused .nonPositiveReference
  else
    let c := v2c s.cfg.n s.dev (volt v)
    .next (s.start [.load (toword s.cfg.n c), .write Cmd.dac] (.const (BitVec.ofNat 64 c)))

/-- GETV (R131): the voltage is computed with the Device State of the moment of the read. -/
def execGetv (s : State) : Result := .next (s.start [.read Cmd.dac] .volt)

end Sys2Proof.Machine
end

