-- ==== Sys2Proof/Machine/Encoder.lean ====
section
/-! DEFINITION. The register encoder family: FGET, FSET (R81, R82). -/

namespace Sys2Proof.Machine

/-- FGET (R81). -/
def execFget (fid : Byte) (w : U16) (s : State) : Result :=
  match Field.ofFid? fid with
  | none => .next s.raiseIllegal
  | some f => .next (s.respondOk ((f.get w).setWidth 64))

/-- FSET (R82). `val` is 8 bits wide; for DAC.data it is zero-extended. -/
def execFset (fid val : Byte) (w : U16) (s : State) : Result :=
  match Field.ofFid? fid with
  | none => .next s.raiseIllegal
  | some f => .next (s.respondOk ((f.set w (val.setWidth 16)).setWidth 64))

end Sys2Proof.Machine
end

