-- ==== Sys2Proof/Machine/Frames.lean ====
section
/-! DEFINITION. The bus frames of the opcode table, each run alone (log 3): a write frame is one RegWrite of its value
(R34, R58), a read frame one RegRead whose word is returned (R33, R59), a constant frame one RegWrite of its word (R60).
None reads or writes the Device State. -/

namespace Sys2Proof.Machine

/-- One write frame: `RegWrite(cmd, value)`, answered OK 0. -/
def frameWrite (cmd : Byte) (value : U16) (s : State) : Result := .next (s.start [.load value, .write cmd] (.const 0))

/-- One read frame: `RegRead(cmd)`, answered with the word. -/
def frameRead (cmd : Byte) (s : State) : Result := .next (s.start [.read cmd] .reg)

/-- W24.NOOP (R25, R58). -/
def execW24Noop (value : U16) (s : State) : Result := frameWrite Cmd.noop value s

/-- R8.NOOP (R25, R59). -/
def execR8Noop (s : State) : Result := frameRead Cmd.noop s

/-- W24.DEVID (R19, R58). -/
def execW24Devid (value : U16) (s : State) : Result := frameWrite Cmd.devid value s

/-- R8.DEVID (R19, R59). -/
def execR8Devid (s : State) : Result := frameRead Cmd.devid s

/-- W24.SYNC (R25, R58). -/
def execW24Sync (value : U16) (s : State) : Result := frameWrite Cmd.sync value s

/-- R8.SYNC (R25, R59). -/
def execR8Sync (s : State) : Result := frameRead Cmd.sync s

/-- W24.CONFIG (R20, R58). -/
def execW24Config (value : U16) (s : State) : Result := frameWrite Cmd.config value s

/-- R8.CONFIG (R20, R59). -/
def execR8Config (s : State) : Result := frameRead Cmd.config s

/-- W24.GAIN (R21, R58). -/
def execW24Gain (value : U16) (s : State) : Result := frameWrite Cmd.gain value s

/-- R8.GAIN (R21, R59). -/
def execR8Gain (s : State) : Result := frameRead Cmd.gain s

/-- W24.TRIGGER (R22, R58). -/
def execW24Trigger (value : U16) (s : State) : Result := frameWrite Cmd.trigger value s

/-- R8.TRIGGER (R22, R59). -/
def execR8Trigger (s : State) : Result := frameRead Cmd.trigger s

/-- W24.STATUS (R23, R58). -/
def execW24Status (value : U16) (s : State) : Result := frameWrite Cmd.status value s

/-- R8.STATUS (R23, R59). -/
def execR8Status (s : State) : Result := frameRead Cmd.status s

/-- W24.DAC (R24, R58). -/
def execW24Dac (value : U16) (s : State) : Result := frameWrite Cmd.dac value s

/-- R8.DAC (R24, R59). -/
def execR8Dac (s : State) : Result := frameRead Cmd.dac s

/-- W24.SOFT_RESET, `05 00 0A` (R60). -/
def execW24SoftReset (s : State) : Result := frameWrite Cmd.trigger wSreset s

/-- W24.LDAC, `05 00 10` (R60). -/
def execW24Ldac (s : State) : Result := frameWrite Cmd.trigger wLdac s

/-- W24.SHUTDOWN_ALL, `03 01 01` (R60). -/
def execW24ShutdownAll (s : State) : Result := frameWrite Cmd.config wShutdown s

end Sys2Proof.Machine
end

