-- ==== Sys2Proof/Machine/Lifecycle.lean ====
section
/-! DEFINITION. The lifecycle family: INIT (R160). -/

namespace Sys2Proof.Machine

/-- INIT (R160): the constructed defaults, the body of REFPD 1, the body of SRESET; INTREF is false at step 3c. -/
def execInit (s : State) : Result :=
  .next (s.start
    ([.mirror (.vref Config.vrefDefault), .mirror (.gain Config.gainDefault), .mirror (.div Config.divDefault)] ++
      refpdSteps true ++ sresetSteps false)
    (.const 0))

end Sys2Proof.Machine
end

