-- ==== Sys2Proof/Machine/Power.lean ====
section
/-! DEFINITION. The power and configuration family: SETGAIN, SETDIV, SETVREF, DACPD, REFPD, SHUTDOWN (R140 to R145). -/

namespace Sys2Proof.Machine

/-- SETGAIN (R140): a number outside 1, 2 is a silent no-op with status OK (R175). -/
def execSetgain (g : Byte) (s : State) : Result :=
  match Factor.ofByte? g with
  | none => .next (s.respondOk 0)
  | some k => .next (s.start (rmwSteps .buffGain (gainEnc k) ++ [.mirror (.gain k)]) (.const 0))

/-- SETDIV (R141). -/
def execSetdiv (d : Byte) (s : State) : Result :=
  match Factor.ofByte? d with
  | none => .next (s.respondOk 0)
  | some k => .next (s.start (rmwSteps .refDiv (gainEnc k) ++ [.mirror (.div k)]) (.const 0))

/-- SETVREF (R142): any value, no validation, no bus transaction. -/
def execSetvref (v : U32) (s : State) : Result := .next (s.start [.mirror (.vref (volt v))] (.const 0))

/-- DACPD (R143): the block keeps no mirror of this bit. -/
def execDacpd (b : Bool) (s : State) : Result := .next (s.start (rmwSteps .dacPwdwn (bitWord b)) (.const 0))

/-- REFPD (R144). -/
def execRefpd (b : Bool) (s : State) : Result := .next (s.start (refpdSteps b) (.const 0))

/-- SHUTDOWN (R145): one write, then INTREF follows the bit written (D12). -/
def execShutdown (s : State) : Result :=
  .next (s.start [.load wShutdown, .write Cmd.config, .mirror (.intref (intrefAfter true))] (.const 0))

end Sys2Proof.Machine
end

