-- ==== Sys2Proof/Machine/Dispatch.lean ====
section
/-! DEFINITION. One arm per instruction, each one call of its meaning. -/

namespace Sys2Proof.Machine

/-- What an instruction does. -/
def exec (i : Instr) (s : State) : Host.Outcome State Fault Refusal :=
  match i with
  | .fget fid w => Sys2Proof.Machine.execFget fid w s
  | .fset fid val w => Sys2Proof.Machine.execFset fid val w s
  | .write cmd value => Sys2Proof.Machine.execWrite cmd value s
  | .readraw cmd => Sys2Proof.Machine.execReadraw cmd s
  | .ldac => Sys2Proof.Machine.execLdac s
  | .sreset => Sys2Proof.Machine.execSreset s
  | .v2c v => Sys2Proof.Machine.execV2c v s
  | .c2v c => Sys2Proof.Machine.execC2v c s
  | .setv v => Sys2Proof.Machine.execSetv v s
  | .getv => Sys2Proof.Machine.execGetv s
  | .setgain g => Sys2Proof.Machine.execSetgain g s
  | .setdiv g => Sys2Proof.Machine.execSetdiv g s
  | .setvref v => Sys2Proof.Machine.execSetvref v s
  | .dacpd b => Sys2Proof.Machine.execDacpd b s
  | .refpd b => Sys2Proof.Machine.execRefpd b s
  | .shutdown => Sys2Proof.Machine.execShutdown s
  | .init => Sys2Proof.Machine.execInit s
  | .w24Noop value => Sys2Proof.Machine.execW24Noop value s
  | .w24Devid value => Sys2Proof.Machine.execW24Devid value s
  | .w24Sync value => Sys2Proof.Machine.execW24Sync value s
  | .w24Config value => Sys2Proof.Machine.execW24Config value s
  | .w24Gain value => Sys2Proof.Machine.execW24Gain value s
  | .w24Trigger value => Sys2Proof.Machine.execW24Trigger value s
  | .w24Status value => Sys2Proof.Machine.execW24Status value s
  | .w24Dac value => Sys2Proof.Machine.execW24Dac value s
  | .r8Noop => Sys2Proof.Machine.execR8Noop s
  | .r8Devid => Sys2Proof.Machine.execR8Devid s
  | .r8Sync => Sys2Proof.Machine.execR8Sync s
  | .r8Config => Sys2Proof.Machine.execR8Config s
  | .r8Gain => Sys2Proof.Machine.execR8Gain s
  | .r8Trigger => Sys2Proof.Machine.execR8Trigger s
  | .r8Status => Sys2Proof.Machine.execR8Status s
  | .r8Dac => Sys2Proof.Machine.execR8Dac s
  | .w24SoftReset => Sys2Proof.Machine.execW24SoftReset s
  | .w24Ldac => Sys2Proof.Machine.execW24Ldac s
  | .w24ShutdownAll => Sys2Proof.Machine.execW24ShutdownAll s

end Sys2Proof.Machine
end

