-- ==== Sys2Proof/WellFormed.lean ====
section
/-! DEFINITION. The checks on an instruction term: a field id is one of R61's (R62), and a general frame does not
spell a word that the table lists as a constant frame of its own (R60; log 4). -/

namespace Sys2Proof

/-- A well-formed instruction. -/
def Instr.wellFormed : Instr → Bool
  | .fget fid _ => (Field.ofFid? fid).isSome
  | .fset fid _ _ => (Field.ofFid? fid).isSome
  | .write _ _ => true
  | .readraw _ => true
  | .ldac => true
  | .sreset => true
  | .v2c _ => true
  | .c2v _ => true
  | .setv _ => true
  | .getv => true
  | .setgain _ => true
  | .setdiv _ => true
  | .setvref _ => true
  | .dacpd _ => true
  | .refpd _ => true
  | .shutdown => true
  | .init => true
  | .w24Noop _ => true
  | .w24Devid _ => true
  | .w24Sync _ => true
  | .w24Config value => value != wShutdown
  | .w24Gain _ => true
  | .w24Trigger value => value != wSreset && value != wLdac
  | .w24Status _ => true
  | .w24Dac _ => true
  | .r8Noop => true
  | .r8Devid => true
  | .r8Sync => true
  | .r8Config => true
  | .r8Gain => true
  | .r8Trigger => true
  | .r8Status => true
  | .r8Dac => true
  | .w24SoftReset => true
  | .w24Ldac => true
  | .w24ShutdownAll => true

end Sys2Proof
end

