-- ==== Sys2Proof/Decode.lean ====
section
/-! DEFINITION. Decoding the block's input words (R51 to R53, R58 to R60), total and rejecting by name; the encoder,
written from the same tables; the opcode table's own rows; and the host's numbered words. -/

namespace Sys2Proof

/-- Why an input word is no instruction (R62 item 1). -/
inductive DecodeError where
  /-- An `op` outside R52. -/
  | unknownOp (op : Byte)
  /-- A frame whose command byte has no row in the opcode table (log 3). -/
  | unnamedFrame (cmd : Byte)
  deriving DecidableEq, Repr

/-- The operation a request word names (R52), its operands laid out by R53. Only `op` can be rejected here (R55);
an unknown field id is decided by the operation itself (R81, R82). -/
def decodeReq (w : BitVec 40) : Except DecodeError Instr :=
  let arg := argOf w
  match opOf w with
  | 0x01#8 => .ok (.fget (argFid arg) (argWord arg))
  | 0x02#8 => .ok (.fset (argFid arg) (argVal arg) (argWord arg))
  | 0x10#8 => .ok (.write (argCmd arg) (argValue arg))
  | 0x11#8 => .ok (.readraw (argCmd arg))
  | 0x12#8 => .ok .ldac
  | 0x13#8 => .ok .sreset
  | 0x20#8 => .ok (.v2c arg)
  | 0x21#8 => .ok (.c2v (argCode arg))
  | 0x22#8 => .ok (.setv arg)
  | 0x23#8 => .ok .getv
  | 0x30#8 => .ok (.setgain (argFactor arg))
  | 0x31#8 => .ok (.setdiv (argFactor arg))
  | 0x32#8 => .ok (.setvref arg)
  | 0x33#8 => .ok (.dacpd (argBit arg))
  | 0x34#8 => .ok (.refpd (argBit arg))
  | 0x35#8 => .ok .shutdown
  | 0x40#8 => .ok .init
  | op => .error (.unknownOp op)

/-- The row a write frame belongs to: the three constant frames, matched in full (R60), before the general
frame of their register (R58; log 4). -/
def decodeW24 (w : BitVec 24) : Except DecodeError Instr :=
  let value := w.extractLsb' 0 16
  match w.extractLsb' 16 8 with
  | 0x00#8 => .ok (.w24Noop value)
  | 0x01#8 => .ok (.w24Devid value)
  | 0x02#8 => .ok (.w24Sync value)
  | 0x03#8 => .ok (if value = wShutdown then .w24ShutdownAll else .w24Config value)
  | 0x04#8 => .ok (.w24Gain value)
  | 0x05#8 => .ok (if value = wSreset then .w24SoftReset else if value = wLdac then .w24Ldac else .w24Trigger value)
  | 0x07#8 => .ok (.w24Status value)
  | 0x08#8 => .ok (.w24Dac value)
  | cmd => .error (.unnamedFrame cmd)

/-- The row a read frame belongs to (R59). -/
def decodeR8 (w : BitVec 8) : Except DecodeError Instr :=
  match w with
  | 0x00#8 => .ok .r8Noop
  | 0x01#8 => .ok .r8Devid
  | 0x02#8 => .ok .r8Sync
  | 0x03#8 => .ok .r8Config
  | 0x04#8 => .ok .r8Gain
  | 0x05#8 => .ok .r8Trigger
  | 0x07#8 => .ok .r8Status
  | 0x08#8 => .ok .r8Dac
  | cmd => .error (.unnamedFrame cmd)

/-- The instruction an input word stands for. Every format has a fixed length (R50, R66). -/
def decode : PortWord → Except DecodeError Instr
  | .req w => decodeReq w
  | .w24 w => decodeW24 w
  | .r8 w => decodeR8 w

/-- A request word from its selector and argument (R51). -/
def reqWord (op : Byte) (arg : U32) : PortWord := .req (op ++ arg)

/-- A write frame from its command byte and value (R58). -/
def w24Word (cmd : Byte) (value : U16) : PortWord := .w24 (cmd ++ value)

/-- The word of an instruction, ignored argument bits zero (R52, R53, R58 to R60). -/
def encode : Instr → PortWord
  | .fget fid w => reqWord 0x01#8 (fid ++ 0x00#8 ++ w)
  | .fset fid val w => reqWord 0x02#8 (fid ++ val ++ w)
  | .write cmd value => reqWord 0x10#8 (0x00#8 ++ cmd ++ value)
  | .readraw cmd => reqWord 0x11#8 (0x00#8 ++ cmd ++ 0x0000#16)
  | .ldac => reqWord 0x12#8 0x00000000#32
  | .sreset => reqWord 0x13#8 0x00000000#32
  | .v2c v => reqWord 0x20#8 v
  | .c2v c => reqWord 0x21#8 (0x0000#16 ++ c)
  | .setv v => reqWord 0x22#8 v
  | .getv => reqWord 0x23#8 0x00000000#32
  | .setgain g => reqWord 0x30#8 (0x000000#24 ++ g)
  | .setdiv g => reqWord 0x31#8 (0x000000#24 ++ g)
  | .setvref v => reqWord 0x32#8 v
  | .dacpd b => reqWord 0x33#8 (0x00000000#31 ++ BitVec.ofBool b)
  | .refpd b => reqWord 0x34#8 (0x00000000#31 ++ BitVec.ofBool b)
  | .shutdown => reqWord 0x35#8 0x00000000#32
  | .init => reqWord 0x40#8 0x00000000#32
  | .w24Noop value => w24Word Cmd.noop value
  | .w24Devid value => w24Word Cmd.devid value
  | .w24Sync value => w24Word Cmd.sync value
  | .w24Config value => w24Word Cmd.config value
  | .w24Gain value => w24Word Cmd.gain value
  | .w24Trigger value => w24Word Cmd.trigger value
  | .w24Status value => w24Word Cmd.status value
  | .w24Dac value => w24Word Cmd.dac value
  | .r8Noop => .r8 Cmd.noop
  | .r8Devid => .r8 Cmd.devid
  | .r8Sync => .r8 Cmd.sync
  | .r8Config => .r8 Cmd.config
  | .r8Gain => .r8 Cmd.gain
  | .r8Trigger => .r8 Cmd.trigger
  | .r8Status => .r8 Cmd.status
  | .r8Dac => .r8 Cmd.dac
  | .w24SoftReset => .w24 0x05000A#24
  | .w24Ldac => .w24 0x050010#24
  | .w24ShutdownAll => .w24 0x030101#24

/-! ### The opcode table's rows -/

/-- A row of spec/opcode_table.json: its mnemonic, width, mask and match. -/
structure Row where
  mnemonic : String
  width : Nat
  mask : Nat
  pattern : Nat
  deriving DecidableEq, Repr

/-- The row an instruction belongs to, as the table spells it. -/
def Instr.row : Instr → Row
  | .fget _ _ => ⟨"FGET", 40, 0xFF00000000, 0x0100000000⟩
  | .fset _ _ _ => ⟨"FSET", 40, 0xFF00000000, 0x0200000000⟩
  | .write _ _ => ⟨"WRITE", 40, 0xFF00000000, 0x1000000000⟩
  | .readraw _ => ⟨"READRAW", 40, 0xFF00000000, 0x1100000000⟩
  | .ldac => ⟨"LDAC", 40, 0xFF00000000, 0x1200000000⟩
  | .sreset => ⟨"SRESET", 40, 0xFF00000000, 0x1300000000⟩
  | .v2c _ => ⟨"V2C", 40, 0xFF00000000, 0x2000000000⟩
  | .c2v _ => ⟨"C2V", 40, 0xFF00000000, 0x2100000000⟩
  | .setv _ => ⟨"SETV", 40, 0xFF00000000, 0x2200000000⟩
  | .getv => ⟨"GETV", 40, 0xFF00000000, 0x2300000000⟩
  | .setgain _ => ⟨"SETGAIN", 40, 0xFF00000000, 0x3000000000⟩
  | .setdiv _ => ⟨"SETDIV", 40, 0xFF00000000, 0x3100000000⟩
  | .setvref _ => ⟨"SETVREF", 40, 0xFF00000000, 0x3200000000⟩
  | .dacpd _ => ⟨"DACPD", 40, 0xFF00000000, 0x3300000000⟩
  | .refpd _ => ⟨"REFPD", 40, 0xFF00000000, 0x3400000000⟩
  | .shutdown => ⟨"SHUTDOWN", 40, 0xFF00000000, 0x3500000000⟩
  | .init => ⟨"INIT", 40, 0xFF00000000, 0x4000000000⟩
  | .w24Noop _ => ⟨"W24.NOOP", 24, 0xFF0000, 0x000000⟩
  | .w24Devid _ => ⟨"W24.DEVID", 24, 0xFF0000, 0x010000⟩
  | .w24Sync _ => ⟨"W24.SYNC", 24, 0xFF0000, 0x020000⟩
  | .w24Config _ => ⟨"W24.CONFIG", 24, 0xFF0000, 0x030000⟩
  | .w24Gain _ => ⟨"W24.GAIN", 24, 0xFF0000, 0x040000⟩
  | .w24Trigger _ => ⟨"W24.TRIGGER", 24, 0xFF0000, 0x050000⟩
  | .w24Status _ => ⟨"W24.STATUS", 24, 0xFF0000, 0x070000⟩
  | .w24Dac _ => ⟨"W24.DAC", 24, 0xFF0000, 0x080000⟩
  | .r8Noop => ⟨"R8.NOOP", 8, 0xFF, 0x00⟩
  | .r8Devid => ⟨"R8.DEVID", 8, 0xFF, 0x01⟩
  | .r8Sync => ⟨"R8.SYNC", 8, 0xFF, 0x02⟩
  | .r8Config => ⟨"R8.CONFIG", 8, 0xFF, 0x03⟩
  | .r8Gain => ⟨"R8.GAIN", 8, 0xFF, 0x04⟩
  | .r8Trigger => ⟨"R8.TRIGGER", 8, 0xFF, 0x05⟩
  | .r8Status => ⟨"R8.STATUS", 8, 0xFF, 0x07⟩
  | .r8Dac => ⟨"R8.DAC", 8, 0xFF, 0x08⟩
  | .w24SoftReset => ⟨"W24.SOFT_RESET", 24, 0xFFFFFF, 0x05000A⟩
  | .w24Ldac => ⟨"W24.LDAC", 24, 0xFFFFFF, 0x050010⟩
  | .w24ShutdownAll => ⟨"W24.SHUTDOWN_ALL", 24, 0xFFFFFF, 0x030101⟩

/-- How many bits an input word has (R66). -/
def PortWord.width : PortWord → Nat
  | .req _ => 40
  | .w24 _ => 24
  | .r8 _ => 8

/-- An input word's bits as a number, bit 0 least significant. -/
def PortWord.bits : PortWord → Nat
  | .req w => w.toNat
  | .w24 w => w.toNat
  | .r8 w => w.toNat

/-- An input word matches a row: the row's width, and the row's pattern under its mask. -/
def PortWord.matchesRow (p : PortWord) (r : Row) : Bool := p.width == r.width && (p.bits &&& r.mask) == r.pattern

/-! ### The host's numbered words -/

/-- The input word whose `nbits` bits are `w`: 40 bits a request, 24 a write frame, 8 a read frame. -/
def PortWord.ofTable (nbits w : Nat) : PortWord :=
  let v := w % 2 ^ nbits
  if nbits ≤ 8 then .r8 (BitVec.ofNat 8 v) else if nbits ≤ 24 then .w24 (BitVec.ofNat 24 v) else .req (BitVec.ofNat 40 v)

/-- The instruction the decoder reads from a word numbered as the opcode table numbers it. -/
def decodeTableWord (nbits w : Nat) : Option Instr :=
  match decode (PortWord.ofTable nbits w) with
  | .ok i => some i
  | .error _ => none

end Sys2Proof
end

