-- ==== Sys2Proof/Machine/Fetch.lean ====
section
/-! DEFINITION. Accepting the next word at the block's input (R17, R51, R203), and placing one there. -/

namespace Sys2Proof.Machine

/-- The oldest word presented, and the state once the block has accepted it. -/
def State.accept? (s : State) : Option (PortWord × State) :=
  match s.requests with
  | [] => none
  | w :: rest => some (w, { s with requests := rest })

/-- Place a word so that the very next step accepts it: the block idle, reset not asserted, the word first in the
queue (log 15). -/
def State.withPortWord (w : PortWord) (s : State) : State :=
  { s with phase := .idle, resetLine := false, requests := w :: s.requests }

end Sys2Proof.Machine
end

