-- ==== Sys2Proof/Machine/Step.lean ====
section
/-! DEFINITION. One step of the block: reset first (R190), then the operation in progress (R27, R206), then the next
word presented (R17, R203). With nothing to do the idle block changes nothing. -/

namespace Sys2Proof.Machine

/-- Run the word accepted: an instruction, or ILLEGAL for a word that names none (R62, R173). -/
def runWord (w : PortWord) (s : State) : Host.Outcome State Fault Refusal :=
  match decode w with
  | .ok i => exec i s
  | .error _ => .next s.raiseIllegal

/-- One step. -/
def step (s : State) : Host.Outcome State Fault Refusal :=
  if s.resetLine then .next s.hardReset
  else
    match s.phase with
    | .busy reg steps ret => .next (runSteps steps reg ret s)
    | .idle =>
      match s.accept? with
      | none => .next s
      | some (w, s') => runWord w s'

/-- The host's placement of a numbered word: the next step runs exactly it (log 15). -/
def State.withFetchWord (s : State) (nbits w : Nat) : State := s.withPortWord (PortWord.ofTable nbits w)

end Sys2Proof.Machine
end

