-- ==== Sys2Proof/Safety.lean ====
section
/-! DEFINITION. The terms claims are made in: a finished operation, the two kinds of bus transaction in the spec's own
notation (R44), the invariant every step keeps, the transport calls of each instruction (R212). -/

namespace Sys2Proof.Machine

/-- The trace entry `W(cmd, v)` answered with `r` (R44). -/
def busW (addr cmd : Byte) (v : U16) (r : Reply) : TraceEntry :=
  ⟨.writeBytes addr [cmd, v.extractLsb' 8 8, v.extractLsb' 0 8], some r⟩

/-- The trace entry `R(cmd)` answered with `r` (R44). -/
def busR (addr cmd : Byte) (r : Reply) : TraceEntry := ⟨.writeThenRead addr [cmd] 2, some r⟩

/-- The state an operation ends in: a Device State, the replies left over, the calls it made, its response. Everything
else is as before. -/
def State.after (s : State) (dev : DeviceState) (answers : List Reply) (calls : List TraceEntry) (r : Response) : State :=
  { s with dev := dev, phase := .idle, answers := answers, trace := s.trace ++ calls, responses := s.responses ++ [r] }

/-- Status OK with a result (R56). -/
def okResp (w : U64) : Response := ⟨.ok, w, none⟩

/-- Status TERR with the error passed through (R172). -/
def terrResp (e : TransportError) : Response := ⟨.terr, 0, some e⟩

/-- Status ILLEGAL (R173). -/
def illegalResp : Response := ⟨.illegal, 0, none⟩

/-- The block is waiting for the transport (R206). -/
def Phase.isBusy : Phase → Bool
  | .idle => false
  | .busy _ _ _ => true

/-- A reply that makes a read fail (R33 steps 2, 3), with the error it is reported as. -/
def Reply.readError? : Reply → Option TransportError
  | .err e => some e
  | .ok bytes => if bytes.length < 2 then some .shortRead else none

/-- A reply that makes a write fail (R34 step 2), with the error it is reported as. -/
def Reply.writeError? : Reply → Option TransportError
  | .err e => some e
  | .ok _ => none

/-- The error a trace entry ends its operation with, if it failed. -/
def TraceEntry.error? (e : TraceEntry) : Option TransportError :=
  match e.call, e.reply with
  | .writeBytes _ _, some r => r.writeError?
  | .writeThenRead _ _ _, some r => r.readError?
  | _, none => none

/-! ### The invariant -/

/-- VREF is a voltage that a request can carry (R54, R132). -/
def VrefEncodable (v : Rat) : Prop := ∃ a : U32, v = volt a

/-- A micro-step that is a transport call. -/
def Micro.isCall : Micro → Bool
  | .read _ => true
  | .write _ => true
  | _ => false

/-- A micro-step that writes VREF. -/
def Micro.setsVref : Micro → Bool
  | .mirror (.vref _) => true
  | _ => false

/-- An operation in progress stands at a transport call and has no VREF write before it (R27; R160 step 1 is done before
the first call). -/
def Phase.wellFormed : Phase → Bool
  | .idle => true
  | .busy _ steps _ => (steps.head?.any Micro.isCall) && steps.all fun m => !m.setsVref

/-- The only two shapes of call the block makes, to its own address (R36). -/
def TxCall.wellFormed (addr : Byte) : TxCall → Bool
  | .writeBytes a bytes => a == addr && bytes.length == 3
  | .writeThenRead a bytes count => a == addr && bytes.length == 1 && count == 2

/-- A response carries an error exactly with TERR, and a result only with OK (R56). -/
def Response.wellFormed (r : Response) : Bool :=
  match r.status with
  | .ok => r.err.isNone
  | .terr => r.result == 0 && r.err.isSome
  | .illegal => r.result == 0 && r.err.isNone

/-- What every step keeps. That GAIN and DIV are in {1, 2} (R12, R13) is the type `Factor`. -/
structure State.Inv (s : State) : Prop where
  vref : VrefEncodable s.dev.vref
  phase : s.phase.wellFormed = true
  traffic : ∀ e ∈ s.trace, e.call.wellFormed s.cfg.addr = true
  responses : ∀ r ∈ s.responses, r.wellFormed = true

/-- Requests presented, in progress and answered, together (R40, R51). -/
def State.accounted (s : State) : Nat :=
  s.requests.length + (if s.phase.isBusy then 1 else 0) + s.responses.length

/-! ### The calls of an instruction -/

/-- What a transport call is for: a read or a write of the register with a command byte (R44). -/
inductive CallKind where
  | read (cmd : Byte)
  | write (cmd : Byte)
  deriving DecidableEq, Repr

/-- The error a reply to a call of this kind ends the operation with, if any (R33, R34). -/
def CallKind.error? (k : CallKind) (r : Reply) : Option TransportError :=
  match k with
  | .read _ => r.readError?
  | .write _ => r.writeError?

/-- The kind of a call of one of the two shapes the block makes (R36). -/
def TxCall.kind? : TxCall → Option CallKind
  | .writeBytes _ [cmd, _, _] => some (.write cmd)
  | .writeThenRead _ [cmd] _ => some (.read cmd)
  | _ => none

/-- The call a micro-step makes, if it is one. -/
def Micro.kind? : Micro → Option CallKind
  | .read cmd => some (.read cmd)
  | .write cmd => some (.write cmd)
  | _ => none

/-- The calls of `REFPD` (R144), read then write. -/
def refpdKinds : List CallKind := [.read 0x03#8, .write 0x03#8]

/-- The transport calls when nothing fails, in order (R212, from the pseudocode of each operation), INTREF being what it
holds when the operation starts. A frame run alone is one call (log 3). -/
def callKinds (intref : Bool) : Instr → List CallKind
  | .fget _ _ => []
  | .fset _ _ _ => []
  | .write cmd _ => [.write cmd]
  | .readraw cmd => [.read cmd]
  | .ldac => [.write 0x05#8]
  | .sreset => .write 0x05#8 :: if intref then [] else refpdKinds
  | .v2c _ => []
  | .c2v _ => []
  | .setv _ => [.write 0x08#8]
  | .getv => [.read 0x08#8]
  | .setgain g => if g = 1#8 ∨ g = 2#8 then [.read 0x04#8, .write 0x04#8] else []
  | .setdiv g => if g = 1#8 ∨ g = 2#8 then [.read 0x04#8, .write 0x04#8] else []
  | .setvref _ => []
  | .dacpd _ => [.read 0x03#8, .write 0x03#8]
  | .refpd _ => refpdKinds
  | .shutdown => [.write 0x03#8]
  | .init => refpdKinds ++ .write 0x05#8 :: refpdKinds
  | .w24Noop _ => [.write 0x00#8]
  | .w24Devid _ => [.write 0x01#8]
  | .w24Sync _ => [.write 0x02#8]
  | .w24Config _ => [.write 0x03#8]
  | .w24Gain _ => [.write 0x04#8]
  | .w24Trigger _ => [.write 0x05#8]
  | .w24Status _ => [.write 0x07#8]
  | .w24Dac _ => [.write 0x08#8]
  | .r8Noop => [.read 0x00#8]
  | .r8Devid => [.read 0x01#8]
  | .r8Sync => [.read 0x02#8]
  | .r8Config => [.read 0x03#8]
  | .r8Gain => [.read 0x04#8]
  | .r8Trigger => [.read 0x05#8]
  | .r8Status => [.read 0x07#8]
  | .r8Dac => [.read 0x08#8]
  | .w24SoftReset => [.write 0x05#8]
  | .w24Ldac => [.write 0x05#8]
  | .w24ShutdownAll => [.write 0x03#8]

/-- The number of transport calls when nothing fails (R212). -/
def callCount (intref : Bool) (i : Instr) : Nat := (callKinds intref i).length

end Sys2Proof.Machine
end

