-- ==== Sys2Proof/Certificates/Slice0/Obligations.lean ====
section
/-! DEFINITION. The statements for the provers. `W(cmd, v)` and `R(cmd)` of the spec (R44) are `busW` and `busR`; a
finished operation is `State.after` (Safety.lean), which leaves every field it does not name as it was. -/

open Sys2Proof Sys2Proof.Machine

/-! ### Encoding -/

/-- Words written out from R52, R53, R58 to R60 decode to what they stand for (the request encoding is the spec's own,
D4; the order of constant and general frames is log 4). -/
def Obligations.DecodesWordsOfTheSpec : Prop :=
  decode (.req 0x0110002000#40) = .ok (.fget 0x10#8 0x2000#16) ∧
  decode (.req 0x0231010001#40) = .ok (.fset 0x31#8 0x01#8 0x0001#16) ∧
  decode (.req 0x1000081234#40) = .ok (.write 0x08#8 0x1234#16) ∧
  decode (.req 0x11FF01FFFF#40) = .ok (.readraw 0x01#8) ∧
  decode (.req 0x1300000000#40) = .ok .sreset ∧
  decode (.req 0x20FFFF0000#40) = .ok (.v2c 0xFFFF0000#32) ∧
  decode (.req 0x21ABCD8000#40) = .ok (.c2v 0x8000#16) ∧
  decode (.req 0x3000000101#40) = .ok (.setgain 0x01#8) ∧
  decode (.req 0x33FFFFFFFE#40) = .ok (.dacpd false) ∧
  decode (.req 0x4000000000#40) = .ok .init ∧
  decode (.w24 0x081234#24) = .ok (.w24Dac 0x1234#16) ∧
  decode (.w24 0x05000A#24) = .ok .w24SoftReset ∧
  decode (.r8 0x07#8) = .ok .r8Status ∧
  decode (.req 0x4100000000#40) = .error (.unknownOp 0x41#8)

/-- Every request word with an `op` of R52 decodes to its operation, each operand from the bits R53 names, whatever the
other bits of `arg` hold (the request encoding is the spec's own, D4). That a FGET or FSET word with a field id outside R61,
which by R62 item 1 names no operation, still decodes to its instruction and is answered ILLEGAL by the meaning is the
model's choice (log 14, DEDUCED). -/
def Obligations.DecodesEveryRequestWord : Prop :=
  ∀ a : U32,
    decode (.req (0x01#8 ++ a)) = .ok (.fget (a.extractLsb' 24 8) (a.extractLsb' 0 16)) ∧
    decode (.req (0x02#8 ++ a)) = .ok (.fset (a.extractLsb' 24 8) (a.extractLsb' 16 8) (a.extractLsb' 0 16)) ∧
    decode (.req (0x10#8 ++ a)) = .ok (.write (a.extractLsb' 16 8) (a.extractLsb' 0 16)) ∧
    decode (.req (0x11#8 ++ a)) = .ok (.readraw (a.extractLsb' 16 8)) ∧
    decode (.req (0x12#8 ++ a)) = .ok .ldac ∧
    decode (.req (0x13#8 ++ a)) = .ok .sreset ∧
    decode (.req (0x20#8 ++ a)) = .ok (.v2c a) ∧
    decode (.req (0x21#8 ++ a)) = .ok (.c2v (a.extractLsb' 0 16)) ∧
    decode (.req (0x22#8 ++ a)) = .ok (.setv a) ∧
    decode (.req (0x23#8 ++ a)) = .ok .getv ∧
    decode (.req (0x30#8 ++ a)) = .ok (.setgain (a.extractLsb' 0 8)) ∧
    decode (.req (0x31#8 ++ a)) = .ok (.setdiv (a.extractLsb' 0 8)) ∧
    decode (.req (0x32#8 ++ a)) = .ok (.setvref a) ∧
    decode (.req (0x33#8 ++ a)) = .ok (.dacpd (a.getLsbD 0)) ∧
    decode (.req (0x34#8 ++ a)) = .ok (.refpd (a.getLsbD 0)) ∧
    decode (.req (0x35#8 ++ a)) = .ok .shutdown ∧
    decode (.req (0x40#8 ++ a)) = .ok .init

/-- Every `op` outside R52 is rejected by name (R62 item 1; the spec's own, D5). -/
def Obligations.RejectsEveryUnknownOp : Prop :=
  ∀ (op : Byte) (a : U32),
    op ∉ [0x01#8, 0x02#8, 0x10#8, 0x11#8, 0x12#8, 0x13#8, 0x20#8, 0x21#8, 0x22#8, 0x23#8, 0x30#8, 0x31#8, 0x32#8, 0x33#8,
      0x34#8, 0x35#8, 0x40#8] →
    decode (.req (op ++ a)) = .error (.unknownOp op)

/-- Decoding the encoding of a well-formed instruction gives it back, every operand at every value. -/
def Obligations.DecodeEncodeAgree : Prop :=
  ∀ i : Instr, i.wellFormed = true → decode (encode i) = .ok i

/-- A bus frame has one reading: whatever instruction a frame decodes to is well-formed and encodes to that frame. By R58
to R60 a constant frame's word has two rows, its own and its register's; that it is read as the constant frame only, and
that the general frame of the same bits is not well-formed, is the model's choice (log 4, DEDUCED). -/
def Obligations.FrameHasOneReading : Prop :=
  (∀ (w : BitVec 24) (i : Instr), decode (.w24 w) = .ok i → i.wellFormed = true ∧ encode i = .w24 w) ∧
  (∀ (w : BitVec 8) (i : Instr), decode (.r8 w) = .ok i → i.wellFormed = true ∧ encode i = .r8 w)

/-! ### The step -/

/-- When the idle block accepts a word that decodes to an instruction, its step is that instruction's effect on the state
without the accepted word (R17, R51, R203; held as a queue by log 15). -/
def Obligations.StepRunsDecodedInstruction : Prop :=
  ∀ (s : State) (w : PortWord) (rest : List PortWord) (i : Instr),
    s.resetLine = false → s.phase = .idle → s.requests = w :: rest → decode w = .ok i →
    step s = exec i { s with requests := rest }

/-- A word that names no instruction is answered ILLEGAL: no Device State change, no transport call (R62, R173, the
spec's own D5; a frame without a row is the model's log 3). -/
def Obligations.StepAnswersIllegal : Prop :=
  ∀ (s : State) (w : PortWord) (rest : List PortWord) (why : DecodeError),
    s.resetLine = false → s.phase = .idle → s.requests = w :: rest → decode w = .error why →
    step s = .next (State.after { s with requests := rest } s.dev s.answers [] ⟨.illegal, 0, none⟩)

/-- Hardware reset (R190, D10): the operation in progress ends without a response and without a call answered, the
Device State takes its defaults, the block is idle. That the cut call enters the trace without a reply, and that the
presented words stay presented, are the model's log 11; that it was not in the trace while it was pending is its log 22. -/
def Obligations.ResetEndsOperation : Prop :=
  ∀ s : State, s.resetLine = true →
    ∃ t, step s = .next t ∧ t.dev = ⟨5 / 2, .two, .one, false⟩ ∧ t.phase = .idle ∧ t.resetLine = false ∧
      t.cfg = s.cfg ∧ t.requests = s.requests ∧ t.answers = s.answers ∧ t.responses = s.responses ∧
      (s.phase = .idle → t.trace = s.trace) ∧
      (∀ reg cmd ms ret, s.phase = .busy reg (.read cmd :: ms) ret →
        t.trace = s.trace ++ [⟨.writeThenRead s.cfg.addr [cmd] 2, none⟩]) ∧
      (∀ reg cmd ms ret, s.phase = .busy reg (.write cmd :: ms) ret →
        t.trace = s.trace ++ [⟨.writeBytes s.cfg.addr [cmd, reg.extractLsb' 8 8, reg.extractLsb' 0 8], none⟩])

/-- A stalled call hangs the block (R206): however many steps are taken, no response is produced and nothing is
accepted, and reset ends it. That a call has not returned is an empty reply queue, and that the waiting block then steps to
the very same state, where U10 says it has no further step, is the model's log 2 (DESIGN CHOICE); that the next step
performs an asserted reset is its log 11 (DESIGN CHOICE). -/
def Obligations.StalledCallHangsTheBlock : Prop :=
  ∀ (s : State) (reg : U16) (m : Micro) (ms : List Micro) (ret : Ret),
    s.resetLine = false → s.phase = .busy reg (m :: ms) ret → m.isCall = true → s.answers = [] →
    (∀ k, Host.Core.run Sys2Proof.core k s = .next s) ∧
    ∃ t, step { s with resetLine := true } = .next t ∧ t.phase = .idle ∧ t.responses = s.responses

/-- An idle block with nothing presented changes nothing (R17, R28; log 15). -/
def Obligations.IdleBlockChangesNothing : Prop :=
  ∀ s : State, s.resetLine = false → s.phase = .idle → s.requests = [] → step s = .next s

/-! ### The register encoder -/

/-- The field table of R61: id, shift, width. -/
def Sys2Proof.specFields : List (Byte × Nat × Nat) :=
  [(0x10#8, 12, 3), (0x30#8, 0, 1), (0x31#8, 8, 1), (0x40#8, 0, 1), (0x41#8, 8, 1), (0x50#8, 0, 4), (0x51#8, 4, 1),
    (0x70#8, 0, 1), (0x80#8, 0, 16)]

/-- The laws of R88 for every named field (the spec derives them from R80 and R84). -/
def Obligations.FieldLaws : Prop :=
  (∀ (f : Field) (w x y : U16),
    f.get (f.set w x) = x &&& BitVec.ofNat 16 (2 ^ f.width - 1) ∧
    f.set w (f.get w) = w ∧
    f.set (f.set w x) y = f.set w y ∧
    f.set w x &&& ~~~(BitVec.ofNat 16 (2 ^ f.width - 1) <<< f.shift) =
      w &&& ~~~(BitVec.ofNat 16 (2 ^ f.width - 1) <<< f.shift)) ∧
  (∀ (f g : Field) (w x y : U16), f ≠ g → f.cmd = g.cmd →
    g.get (f.set w x) = g.get w ∧ f.set (g.set w y) x = g.set (f.set w x) y) ∧
  (∀ k : Factor, gainDec ((gainEnc k).getLsbD 0) = k) ∧
  (∀ b : Bool, (gainEnc (gainDec b)).getLsbD 0 = b)

/-- FGET returns the field's bits, zero-extended, and does nothing else (R81; the ids are the spec's own, D15). -/
def Obligations.FgetReturnsField : Prop :=
  ∀ (s : State) (fid : Byte) (sh k : Nat) (w : U16), (fid, sh, k) ∈ Sys2Proof.specFields →
    exec (.fget fid w) s =
      .next (s.after s.dev s.answers [] (okResp (((w >>> sh) &&& BitVec.ofNat 16 (2 ^ k - 1)).setWidth 64)))

/-- FSET returns the word with the field replaced by the value cut to the field's width, every other bit as it was, and
does nothing else (R82; the ids and the cutting are the spec's own, D15). -/
def Obligations.FsetReplacesField : Prop :=
  ∀ (s : State) (fid val : Byte) (sh k : Nat) (w : U16), (fid, sh, k) ∈ Sys2Proof.specFields →
    exec (.fset fid val w) s =
      .next (s.after s.dev s.answers [] (okResp
        (((w &&& ~~~(BitVec.ofNat 16 (2 ^ k - 1) <<< sh)) |||
          (((val.setWidth 16) &&& BitVec.ofNat 16 (2 ^ k - 1)) <<< sh)).setWidth 64)))

/-- FGET and FSET with an id outside R61 answer ILLEGAL and do nothing else (R62 item 1, R81 step 1, R82 step 1; D5). -/
def Obligations.UnknownFieldIdIsIllegal : Prop :=
  ∀ (s : State) (fid val : Byte) (w : U16), fid ∉ Sys2Proof.specFields.map Prod.fst →
    exec (.fget fid w) s = .next (s.after s.dev s.answers [] illegalResp) ∧
    exec (.fset fid val w) s = .next (s.after s.dev s.answers [] illegalResp)

/-- The register images the block builds (R83 to R85), and that their reserved bits are zero (R87 (a)). The polarity of
the gain and divider bits is the spec's D7. -/
def Obligations.RegisterImages : Prop :=
  packConfig true true = 0x0101#16 ∧ packConfig true false = 0x0001#16 ∧ packConfig false true = 0x0100#16 ∧
  packGain .two .one = 0x0001#16 ∧ packGain .one .one = 0x0000#16 ∧ packGain .one .two = 0x0100#16 ∧
  packGain .two .two = 0x0101#16 ∧
  packTrigger 0b1010#4 false = 0x000A#16 ∧ packTrigger 0#4 true = 0x0010#16 ∧
  wShutdown = 0x0101#16 ∧ wSreset = 0x000A#16 ∧ wLdac = 0x0010#16 ∧
  (∀ d r, packConfig d r &&& reservedMask 0x03#8 = 0) ∧
  (∀ g d, packGain g d &&& reservedMask 0x04#8 = 0) ∧
  (∀ sr l, packTrigger sr l &&& reservedMask 0x05#8 = 0)

/-! ### Register access -/

/-- A register write is one transaction of exactly three bytes, command, high byte, low byte; success changes nothing
else, an error ends the operation with that error (R31, R34). -/
def Obligations.WriteIsOneThreeByteTransaction : Prop :=
  ∀ (s : State) (cmd : Byte) (v : U16) (rest : List Reply),
    (∀ bs, s.answers = .ok bs :: rest →
      exec (.write cmd v) s = .next (s.after s.dev rest
        [⟨.writeBytes s.cfg.addr [cmd, v.extractLsb' 8 8, v.extractLsb' 0 8], some (.ok bs)⟩] (okResp 0))) ∧
    (∀ e, s.answers = .err e :: rest →
      exec (.write cmd v) s = .next (s.after s.dev rest
        [⟨.writeBytes s.cfg.addr [cmd, v.extractLsb' 8 8, v.extractLsb' 0 8], some (.err e)⟩] (terrResp e)))

/-- READRAW sends the command byte, reads two bytes after a repeated start and returns them high byte first; it fails
with the transport's error, or as a short read when fewer than two bytes come back (R101). -/
def Obligations.ReadrawReturnsBigEndianWord : Prop :=
  ∀ (s : State) (cmd : Byte) (rest : List Reply),
    (∀ hi lo, s.answers = .ok [hi, lo] :: rest →
      exec (.readraw cmd) s = .next (s.after s.dev rest [⟨.writeThenRead s.cfg.addr [cmd] 2, some (.ok [hi, lo])⟩]
        (okResp ((hi ++ lo : U16).setWidth 64)))) ∧
    (∀ e, s.answers = .err e :: rest →
      exec (.readraw cmd) s = .next (s.after s.dev rest [⟨.writeThenRead s.cfg.addr [cmd] 2, some (.err e)⟩]
        (terrResp e))) ∧
    (∀ bs, bs.length < 2 → s.answers = .ok bs :: rest →
      exec (.readraw cmd) s = .next (s.after s.dev rest [⟨.writeThenRead s.cfg.addr [cmd] 2, some (.ok bs)⟩]
        (terrResp .shortRead)))

/-- LDAC hands the transport 05 00 10 and is in every state what WRITE 0x05, 0x0010 is (R102). -/
def Obligations.LdacIsWriteOfTriggerWord : Prop :=
  ∀ (s : State) (rest : List Reply),
    exec .ldac s = exec (.write 0x05#8 0x0010#16) s ∧
    (∀ bs, s.answers = .ok bs :: rest →
      exec .ldac s = .next (s.after s.dev rest
        [⟨.writeBytes s.cfg.addr [0x05#8, 0x00#8, 0x10#8], some (.ok bs)⟩] (okResp 0))) ∧
    (∀ e, s.answers = .err e :: rest →
      exec .ldac s = .next (s.after s.dev rest
        [⟨.writeBytes s.cfg.addr [0x05#8, 0x00#8, 0x10#8], some (.err e)⟩] (terrResp e)))

/-- SRESET completes: one write when INTREF is true, and three transactions when it is false, the last writing CONFIG back
with bit 8 set and every other bit as read; GAIN becomes 2 and DIV 1 (R103; order by D26). -/
def Obligations.SresetCompletes : Prop :=
  ∀ (s : State) (b0 b1 : List Byte) (hi lo : Byte) (tl : List Byte) (rest : List Reply),
    (s.dev.intref = true → s.answers = .ok b0 :: rest →
      exec .sreset s = .next (s.after { s.dev with gain := .two, div := .one } rest
        [busW s.cfg.addr 0x05#8 0x000A#16 (.ok b0)] (okResp 0))) ∧
    (s.dev.intref = false → s.answers = .ok b0 :: .ok (hi :: lo :: tl) :: .ok b1 :: rest →
      exec .sreset s = .next (s.after { s.dev with gain := .two, div := .one, intref := false } rest
        [busW s.cfg.addr 0x05#8 0x000A#16 (.ok b0), busR s.cfg.addr 0x03#8 (.ok (hi :: lo :: tl)),
          busW s.cfg.addr 0x03#8 ((hi ++ lo) ||| 0x0100#16) (.ok b1)] (okResp 0)))

/-- The reference power-down is re-issued when, and only when, INTREF is false at the moment SRESET starts (R104, C1):
when no call fails, SRESET writes CONFIG exactly then, and then with the power-down bit set. No call fails: the first write
is answered `Ok`, and where INTREF is false the read answers two bytes and the second write `Ok`. -/
def Obligations.SresetReissuesExactlyWhenExternal : Prop :=
  ∀ (s : State) (r0 : Reply) (rest : List Reply),
    s.answers = r0 :: rest → r0.writeError? = none →
    (s.dev.intref = false → ∃ r1 r2 tl, rest = r1 :: r2 :: tl ∧ r1.readError? = none ∧ r2.writeError? = none) →
    ∃ t new, exec .sreset s = .next t ∧ t.trace = s.trace ++ new ∧
      ((∃ v r, busW s.cfg.addr 0x03#8 v r ∈ new) ↔ s.dev.intref = false) ∧
      (∀ v r, busW s.cfg.addr 0x03#8 v r ∈ new → v.getLsbD 8 = true)

/-- What SRESET leaves when a call fails (R174, R172; D9, D26): at its first write nothing changed; at the CONFIG read or
the CONFIG write GAIN is 2, DIV is 1 and INTREF is as it was. -/
def Obligations.SresetErrorLeavesItsSteps : Prop :=
  ∀ (s : State) (b0 : List Byte) (e : TransportError) (r : Reply) (hi lo : Byte) (tl : List Byte) (rest : List Reply),
    (s.answers = .err e :: rest →
      exec .sreset s = .next (s.after s.dev rest [busW s.cfg.addr 0x05#8 0x000A#16 (.err e)] (terrResp e))) ∧
    (s.dev.intref = false → r.readError? = some e → s.answers = .ok b0 :: r :: rest →
      exec .sreset s = .next (s.after { s.dev with gain := .two, div := .one } rest
        [busW s.cfg.addr 0x05#8 0x000A#16 (.ok b0), busR s.cfg.addr 0x03#8 r] (terrResp e))) ∧
    (s.dev.intref = false → s.answers = .ok b0 :: .ok (hi :: lo :: tl) :: .err e :: rest →
      exec .sreset s = .next (s.after { s.dev with gain := .two, div := .one } rest
        [busW s.cfg.addr 0x05#8 0x000A#16 (.ok b0), busR s.cfg.addr 0x03#8 (.ok (hi :: lo :: tl)),
          busW s.cfg.addr 0x03#8 ((hi ++ lo) ||| 0x0100#16) (.err e)] (terrResp e)))

/-! ### Conversion -/

/-- V2C with VREF positive returns the code of R122, zero-extended, and does nothing else; with VREF not positive it is
refused (R128, R134; the refusal is the spec's D14, log 7). -/
def Obligations.V2cReturnsCode : Prop :=
  ∀ (s : State) (a : U32),
    (0 < s.dev.vref →
      exec (.v2c a) s = .next (s.after s.dev s.answers []
        (okResp (BitVec.ofNat 64 (v2c s.cfg.n s.dev ((a.toInt : Rat) / 65536)))))) ∧
    (s.dev.vref ≤ 0 → exec (.v2c a) s = .refused .nonPositiveReference)

/-- The decision intervals of R133 item 3, which determine `v2c`: below the top code `c` is answered exactly on
`[(c - 1/2) LSB, (c + 1/2) LSB)`, from minus infinity for `c = 0`, and the top code exactly from `(2^N - 3/2) LSB` up;
no other code is ever answered. -/
def Obligations.V2cDecisionIntervals : Prop :=
  ∀ (n : Nat) (d : DeviceState) (v lsb : Rat), 1 ≤ n → 0 < d.vref →
    lsb = d.vref * d.gain.val / d.div.val / 2 ^ n →
    (∀ c : Nat, c < 2 ^ n - 1 →
      (v2c n d v = c ↔ (c = 0 ∨ ((c : Rat) - 1 / 2) * lsb ≤ v) ∧ v < ((c : Rat) + 1 / 2) * lsb)) ∧
    (v2c n d v = 2 ^ n - 1 ↔ ((2 : Rat) ^ n - 3 / 2) * lsb ≤ v) ∧
    v2c n d v < 2 ^ n

/-- The clamps of R133 item 1 and the monotonicity of R133 item 2, over all rationals. -/
def Obligations.V2cClampsAndIsMonotone : Prop :=
  ∀ (n : Nat) (d : DeviceState), 0 < d.vref →
    (∀ v : Rat, v ≤ 0 → v2c n d v = 0) ∧
    (∀ v : Rat, d.vref * d.gain.val / d.div.val ≤ v → v2c n d v = 2 ^ n - 1) ∧
    (∀ v w : Rat, v ≤ w → v2c n d v ≤ v2c n d w)

/-- The round trip of R133 item 4 (C7): under exact arithmetic a code's voltage converts back to the code. -/
def Obligations.CodeRoundTripIsExact : Prop :=
  ∀ (n : Nat) (d : DeviceState) (c : Nat), 0 < d.vref → c < 2 ^ n →
    v2c n d ((c : Rat) / 2 ^ n * d.vref / d.div.val * d.gain.val) = c

/-- The quantisation error of R133 item 5. -/
def Obligations.QuantisationErrorBound : Prop :=
  ∀ (n : Nat) (d : DeviceState) (v fs lsb : Rat), 0 < d.vref →
    fs = d.vref * d.gain.val / d.div.val → lsb = fs / 2 ^ n →
    (0 ≤ v → v < fs - lsb / 2 → |c2v n d (v2c n d v) - v| ≤ lsb / 2) ∧
    (fs - lsb / 2 ≤ v → v ≤ fs → |c2v n d (v2c n d v) - v| = v - (fs - lsb) ∧ v - (fs - lsb) ≤ lsb)

/-- The integer form of R132 equals the rational form, forward and back, for every VREF and operand that are multiples of
`2^-16`. -/
def Obligations.IntegerFormAgrees : Prop :=
  ∀ (n : Nat) (d : DeviceState) (vr vi : Int) (c : Nat), n ≤ 16 → d.vref = (vr : Rat) / 65536 →
    (0 < vr → v2c n d ((vi : Rat) / 65536) =
      (if vi < 0 then 0
       else if vr * d.gain.val ≤ vi * d.div.val then 2 ^ n - 1
       else min ((2 * vi * 2 ^ n * d.div.val + vr * d.gain.val) / (2 * vr * d.gain.val)).toNat (2 ^ n - 1))) ∧
    c2v n d c * 2 ^ 33 = ((c * vr * d.gain.val * 2 ^ (17 - n) / d.div.val : Int) : Rat) ∧
    (d.div.val : Int) ∣ c * vr * d.gain.val * 2 ^ (17 - n)

/-- C2V returns `c / 2^N * VREF / DIV * GAIN` exactly, as a 64-bit number with 33 fraction bits, and does nothing else
(R57, R127, R129), for every VREF a request can carry unless N = 1 and the code is out of range; for those states, and
where VREF is no such number, it completes with a word the spec does not state (log 8). -/
def Obligations.C2vReturnsExactVoltage : Prop :=
  ∀ (s : State) (c : U16), ∃ r : U64,
    exec (.c2v c) s = .next (s.after s.dev s.answers [] (okResp r)) ∧
    ((∃ a : U32, s.dev.vref = (a.toInt : Rat) / 65536) → (2 ≤ s.cfg.n ∨ c.toNat < 2 ^ s.cfg.n) →
      (r.toInt : Rat) = (c.toNat : Rat) / 2 ^ s.cfg.n * s.dev.vref / s.dev.div.val * s.dev.gain.val * 2 ^ 33)

/-- SETV with VREF positive writes the left-aligned code to DAC-DATA and returns the code; an error of the write is passed
through; with VREF not positive it is refused (R130, R134; D14, D27, log 7). -/
def Obligations.SetvWritesCode : Prop :=
  ∀ (s : State) (a : U32) (c : Nat) (rest : List Reply), c = v2c s.cfg.n s.dev ((a.toInt : Rat) / 65536) →
    (0 < s.dev.vref → ∀ bs, s.answers = .ok bs :: rest →
      exec (.setv a) s = .next (s.after s.dev rest
        [busW s.cfg.addr 0x08#8 (BitVec.ofNat 16 (c * 2 ^ (16 - s.cfg.n))) (.ok bs)] (okResp (BitVec.ofNat 64 c)))) ∧
    (0 < s.dev.vref → ∀ e, s.answers = .err e :: rest →
      exec (.setv a) s = .next (s.after s.dev rest
        [busW s.cfg.addr 0x08#8 (BitVec.ofNat 16 (c * 2 ^ (16 - s.cfg.n))) (.err e)] (terrResp e))) ∧
    (s.dev.vref ≤ 0 → exec (.setv a) s = .refused .nonPositiveReference)

/-- GETV reads DAC-DATA, drops the low `16 - N` bits and returns the code's voltage under the present VREF, GAIN and DIV,
exactly where VREF is a number a request can carry (R126, R131, R57; the alignment is the spec's D6). -/
def Obligations.GetvReturnsExactVoltage : Prop :=
  ∀ (s : State) (hi lo : Byte) (tl : List Byte) (rest : List Reply), s.answers = .ok (hi :: lo :: tl) :: rest →
    ∃ r : U64, exec .getv s = .next (s.after s.dev rest [busR s.cfg.addr 0x08#8 (.ok (hi :: lo :: tl))] (okResp r)) ∧
      ((∃ a : U32, s.dev.vref = (a.toInt : Rat) / 65536) →
        (r.toInt : Rat) =
          (((hi ++ lo : U16).toNat / 2 ^ (16 - s.cfg.n) : Nat) : Rat) / 2 ^ s.cfg.n * s.dev.vref / s.dev.div.val *
            s.dev.gain.val * 2 ^ 33)

/-- Codes and DAC-DATA words (R63, R125, R126; the spec's D6): a code comes back from its word, the word's low bits are
zero, and a word's code never exceeds N bits. -/
def Obligations.CodeAlignment : Prop :=
  ∀ (cfg : Config) (c : Nat) (w : U16), c < 2 ^ cfg.n →
    fromword cfg.n (toword cfg.n c) = c ∧ (toword cfg.n c).toNat % 2 ^ (16 - cfg.n) = 0 ∧
    fromword cfg.n w < 2 ^ cfg.n

/-! ### Power and configuration -/

/-- SETGAIN 1 and SETGAIN 2 read GAIN, write it back with bit 0 holding the gain less one and every other bit as read, then
set GAIN; nothing else of the Device State changes (R140; D7, D8, D9). -/
def Obligations.SetgainCompletes : Prop :=
  ∀ (s : State) (hi lo : Byte) (tl bs : List Byte) (rest : List Reply),
    s.answers = .ok (hi :: lo :: tl) :: .ok bs :: rest →
    exec (.setgain 1#8) s = .next (s.after { s.dev with gain := .one } rest
      [busR s.cfg.addr 0x04#8 (.ok (hi :: lo :: tl)), busW s.cfg.addr 0x04#8 ((hi ++ lo) &&& 0xFFFE#16) (.ok bs)]
      (okResp 0)) ∧
    exec (.setgain 2#8) s = .next (s.after { s.dev with gain := .two } rest
      [busR s.cfg.addr 0x04#8 (.ok (hi :: lo :: tl)), busW s.cfg.addr 0x04#8 ((hi ++ lo) ||| 0x0001#16) (.ok bs)]
      (okResp 0))

/-- SETDIV 1 and SETDIV 2 read GAIN, write it back with bit 8 holding the divider less one and every other bit as read,
then set DIV; nothing else of the Device State changes (R141; D7, D8, D9). -/
def Obligations.SetdivCompletes : Prop :=
  ∀ (s : State) (hi lo : Byte) (tl bs : List Byte) (rest : List Reply),
    s.answers = .ok (hi :: lo :: tl) :: .ok bs :: rest →
    exec (.setdiv 1#8) s = .next (s.after { s.dev with div := .one } rest
      [busR s.cfg.addr 0x04#8 (.ok (hi :: lo :: tl)), busW s.cfg.addr 0x04#8 ((hi ++ lo) &&& 0xFEFF#16) (.ok bs)]
      (okResp 0)) ∧
    exec (.setdiv 2#8) s = .next (s.after { s.dev with div := .two } rest
      [busR s.cfg.addr 0x04#8 (.ok (hi :: lo :: tl)), busW s.cfg.addr 0x04#8 ((hi ++ lo) ||| 0x0100#16) (.ok bs)]
      (okResp 0))

/-- The silent no-op (R175): an out-of-range gain or divider leaves the Device State as it was and the response is status
OK, result 0, the same as for a successful setting. -/
def Obligations.InvalidSettingIsSilentlyIgnored : Prop :=
  ∀ (s : State) (g : Byte), g ≠ 1#8 → g ≠ 2#8 →
    ∃ t u, exec (.setgain g) s = .next t ∧ exec (.setdiv g) s = .next u ∧
      t.dev = s.dev ∧ u.dev = s.dev ∧
      t.responses = s.responses ++ [⟨.ok, 0, none⟩] ∧ u.responses = s.responses ++ [⟨.ok, 0, none⟩]

/-- SETVREF stores the operand's voltage, any value, with no check and no bus transaction, and changes nothing else
(R142; D14). -/
def Obligations.SetvrefStoresAnyVoltage : Prop :=
  ∀ (s : State) (a : U32),
    exec (.setvref a) s = .next (s.after { s.dev with vref := (a.toInt : Rat) / 65536 } s.answers [] (okResp 0))

/-- DACPD reads CONFIG and writes it back with bit 0 set or cleared and every other bit as read; the Device State does not
change (R143; D28). -/
def Obligations.DacpdCompletes : Prop :=
  ∀ (s : State) (hi lo : Byte) (tl bs : List Byte) (rest : List Reply),
    s.answers = .ok (hi :: lo :: tl) :: .ok bs :: rest →
    exec (.dacpd true) s = .next (s.after s.dev rest
      [busR s.cfg.addr 0x03#8 (.ok (hi :: lo :: tl)), busW s.cfg.addr 0x03#8 ((hi ++ lo) ||| 0x0001#16) (.ok bs)]
      (okResp 0)) ∧
    exec (.dacpd false) s = .next (s.after s.dev rest
      [busR s.cfg.addr 0x03#8 (.ok (hi :: lo :: tl)), busW s.cfg.addr 0x03#8 ((hi ++ lo) &&& 0xFFFE#16) (.ok bs)]
      (okResp 0))

/-- REFPD reads CONFIG and writes it back with bit 8 set or cleared and every other bit as read, then INTREF gets the
complement of that bit, whatever it held (R144, R14, C2; D9). -/
def Obligations.RefpdCompletes : Prop :=
  ∀ (s : State) (hi lo : Byte) (tl bs : List Byte) (rest : List Reply),
    s.answers = .ok (hi :: lo :: tl) :: .ok bs :: rest →
    exec (.refpd true) s = .next (s.after { s.dev with intref := false } rest
      [busR s.cfg.addr 0x03#8 (.ok (hi :: lo :: tl)), busW s.cfg.addr 0x03#8 ((hi ++ lo) ||| 0x0100#16) (.ok bs)]
      (okResp 0)) ∧
    exec (.refpd false) s = .next (s.after { s.dev with intref := true } rest
      [busR s.cfg.addr 0x03#8 (.ok (hi :: lo :: tl)), busW s.cfg.addr 0x03#8 ((hi ++ lo) &&& 0xFEFF#16) (.ok bs)]
      (okResp 0))

/-- SHUTDOWN writes CONFIG with 0x0101 in one transaction and clears INTREF; an error leaves INTREF as it was (R145; D12,
D9). -/
def Obligations.ShutdownCompletes : Prop :=
  ∀ (s : State) (rest : List Reply),
    (∀ bs, s.answers = .ok bs :: rest →
      exec .shutdown s = .next (s.after { s.dev with intref := false } rest
        [⟨.writeBytes s.cfg.addr [0x03#8, 0x01#8, 0x01#8], some (.ok bs)⟩] (okResp 0))) ∧
    (∀ e, s.answers = .err e :: rest →
      exec .shutdown s = .next (s.after s.dev rest
        [⟨.writeBytes s.cfg.addr [0x03#8, 0x01#8, 0x01#8], some (.err e)⟩] (terrResp e)))

/-- INIT from any state makes its five transactions and ends with VREF 2.5, GAIN 2, DIV 1, INTREF false (R160; D11). -/
def Obligations.InitCompletes : Prop :=
  ∀ (s : State) (h1 l1 h2 l2 : Byte) (t1 t2 b1 b2 b3 : List Byte) (rest : List Reply),
    s.answers = .ok (h1 :: l1 :: t1) :: .ok b1 :: .ok b2 :: .ok (h2 :: l2 :: t2) :: .ok b3 :: rest →
    exec .init s = .next (s.after ⟨5 / 2, .two, .one, false⟩ rest
      [busR s.cfg.addr 0x03#8 (.ok (h1 :: l1 :: t1)), busW s.cfg.addr 0x03#8 ((h1 ++ l1) ||| 0x0100#16) (.ok b1),
        busW s.cfg.addr 0x05#8 0x000A#16 (.ok b2),
        busR s.cfg.addr 0x03#8 (.ok (h2 :: l2 :: t2)), busW s.cfg.addr 0x03#8 ((h2 ++ l2) ||| 0x0100#16) (.ok b3)]
      (okResp 0))

/-! ### Bus frames -/

/-- Each write frame and constant frame run alone is one transaction of its three bytes, Device State unchanged (R58, R60;
that a frame can be run alone and is answered OK 0 or TERR is the model's log 3). -/
def Obligations.WriteFramesComplete : Prop :=
  ∀ (s : State) (v : U16) (rest : List Reply) (i : Instr) (cmd : Byte) (w : U16),
    (i, cmd, w) ∈ [(Instr.w24Noop v, 0x00#8, v), (.w24Devid v, 0x01#8, v), (.w24Sync v, 0x02#8, v),
      (.w24Config v, 0x03#8, v), (.w24Gain v, 0x04#8, v), (.w24Trigger v, 0x05#8, v), (.w24Status v, 0x07#8, v),
      (.w24Dac v, 0x08#8, v), (.w24SoftReset, 0x05#8, 0x000A#16), (.w24Ldac, 0x05#8, 0x0010#16),
      (.w24ShutdownAll, 0x03#8, 0x0101#16)] →
    (∀ bs, s.answers = .ok bs :: rest →
      exec i s = .next (s.after s.dev rest [busW s.cfg.addr cmd w (.ok bs)] (okResp 0))) ∧
    (∀ e, s.answers = .err e :: rest →
      exec i s = .next (s.after s.dev rest [busW s.cfg.addr cmd w (.err e)] (terrResp e)))

/-- Each read frame run alone, and READRAW, is one read transaction whose word is returned high byte first, Device State
unchanged; a failing read ends it (R59, R33; that a frame can be run alone is the model's log 3, that bytes past the second
are not used is the spec's D20). -/
def Obligations.ReadFramesComplete : Prop :=
  ∀ (s : State) (c : Byte) (rest : List Reply) (i : Instr) (cmd : Byte),
    (i, cmd) ∈ [(Instr.r8Noop, 0x00#8), (.r8Devid, 0x01#8), (.r8Sync, 0x02#8), (.r8Config, 0x03#8), (.r8Gain, 0x04#8),
      (.r8Trigger, 0x05#8), (.r8Status, 0x07#8), (.r8Dac, 0x08#8), (.readraw c, c)] →
    (∀ hi lo tl, s.answers = .ok (hi :: lo :: tl) :: rest →
      exec i s = .next (s.after s.dev rest [busR s.cfg.addr cmd (.ok (hi :: lo :: tl))]
        (okResp ((hi ++ lo : U16).setWidth 64)))) ∧
    (∀ r e, r.readError? = some e → s.answers = r :: rest →
      exec i s = .next (s.after s.dev rest [busR s.cfg.addr cmd r] (terrResp e)))

/-! ### Errors -/

/-- What a read-modify-write leaves when a call fails (R172, R174; D9): nothing of the Device State changes, after a failed
read no write is made, and a failed write is the attempt to write the word read with its one field replaced (the polarity
of the gain and divider bits is the spec's D7). -/
def Obligations.ReadModifyWriteErrorLeavesState : Prop :=
  ∀ (s : State) (rest : List Reply) (i : Instr) (f : Field) (x : U16),
    (i, f, x) ∈ [(Instr.setgain 1#8, Field.buffGain, 0#16), (.setgain 2#8, .buffGain, 1#16), (.setdiv 1#8, .refDiv, 0#16),
      (.setdiv 2#8, .refDiv, 1#16), (.dacpd false, .dacPwdwn, 0#16), (.dacpd true, .dacPwdwn, 1#16),
      (.refpd false, .refPwdwn, 0#16), (.refpd true, .refPwdwn, 1#16)] →
    (∀ r e, r.readError? = some e → s.answers = r :: rest →
      exec i s = .next (s.after s.dev rest [busR s.cfg.addr f.cmd r] (terrResp e))) ∧
    (∀ hi lo tl e, s.answers = .ok (hi :: lo :: tl) :: .err e :: rest →
      exec i s = .next (s.after s.dev rest
        [busR s.cfg.addr f.cmd (.ok (hi :: lo :: tl)), busW s.cfg.addr f.cmd (f.set (hi ++ lo) x) (.err e)] (terrResp e)))

/-- What INIT leaves when a call fails (R172, R174; D9, D11), one clause for each of its five calls, a write that succeeds
being answered `Ok` with any bytes or none: VREF 2.5, GAIN 2 and DIV 1 at every point; INTREF as it was at the first two
calls and false from the third on; the calls made up to the failing one; that call's error as the response. -/
def Obligations.InitErrorLeavesItsSteps : Prop :=
  ∀ (s : State) (r : Reply) (e : TransportError) (h1 l1 h2 l2 : Byte) (t1 t2 b1 b2 : List Byte) (rest : List Reply),
    (r.readError? = some e → s.answers = r :: rest →
      exec .init s = .next (s.after ⟨5 / 2, .two, .one, s.dev.intref⟩ rest [busR s.cfg.addr 0x03#8 r] (terrResp e))) ∧
    (s.answers = .ok (h1 :: l1 :: t1) :: .err e :: rest →
      exec .init s = .next (s.after ⟨5 / 2, .two, .one, s.dev.intref⟩ rest
        [busR s.cfg.addr 0x03#8 (.ok (h1 :: l1 :: t1)), busW s.cfg.addr 0x03#8 ((h1 ++ l1) ||| 0x0100#16) (.err e)]
        (terrResp e))) ∧
    (s.answers = .ok (h1 :: l1 :: t1) :: .ok b1 :: .err e :: rest →
      exec .init s = .next (s.after ⟨5 / 2, .two, .one, false⟩ rest
        [busR s.cfg.addr 0x03#8 (.ok (h1 :: l1 :: t1)), busW s.cfg.addr 0x03#8 ((h1 ++ l1) ||| 0x0100#16) (.ok b1),
          busW s.cfg.addr 0x05#8 0x000A#16 (.err e)]
        (terrResp e))) ∧
    (r.readError? = some e → s.answers = .ok (h1 :: l1 :: t1) :: .ok b1 :: .ok b2 :: r :: rest →
      exec .init s = .next (s.after ⟨5 / 2, .two, .one, false⟩ rest
        [busR s.cfg.addr 0x03#8 (.ok (h1 :: l1 :: t1)), busW s.cfg.addr 0x03#8 ((h1 ++ l1) ||| 0x0100#16) (.ok b1),
          busW s.cfg.addr 0x05#8 0x000A#16 (.ok b2), busR s.cfg.addr 0x03#8 r]
        (terrResp e))) ∧
    (s.answers = .ok (h1 :: l1 :: t1) :: .ok b1 :: .ok b2 :: .ok (h2 :: l2 :: t2) :: .err e :: rest →
      exec .init s = .next (s.after ⟨5 / 2, .two, .one, false⟩ rest
        [busR s.cfg.addr 0x03#8 (.ok (h1 :: l1 :: t1)), busW s.cfg.addr 0x03#8 ((h1 ++ l1) ||| 0x0100#16) (.ok b1),
          busW s.cfg.addr 0x05#8 0x000A#16 (.ok b2), busR s.cfg.addr 0x03#8 (.ok (h2 :: l2 :: t2)),
          busW s.cfg.addr 0x03#8 ((h2 ++ l2) ||| 0x0100#16) (.err e)]
        (terrResp e)))

/-- A read of DAC-DATA that fails leaves the Device State unchanged and its error is the response of GETV (R131, R172,
R174). -/
def Obligations.GetvErrorLeavesState : Prop :=
  ∀ (s : State) (r : Reply) (e : TransportError) (rest : List Reply), r.readError? = some e → s.answers = r :: rest →
    exec .getv s = .next (s.after s.dev rest [busR s.cfg.addr 0x08#8 r] (terrResp e))

/-- The first failing call ends the operation (R172, R178): only the last call of an operation can have failed, the response
is TERR exactly when it has, with that call's error unmodified, and an operation that has failed is over. -/
def Obligations.FirstFailingCallEndsOperation : Prop :=
  ∀ (i : Instr) (s t : State) (new : List TraceEntry), exec i s = .next t → t.trace = s.trace ++ new →
    (∀ c ∈ new.dropLast, c.error? = none) ∧
    (∀ c e, new.getLast? = some c → c.error? = some e →
      t.phase = .idle ∧ t.responses = s.responses ++ [⟨.terr, 0, some e⟩]) ∧
    (∀ r, t.responses = s.responses ++ [r] → r.status = .terr → ∃ c, new.getLast? = some c ∧ c.error? = r.err)

/-! ### All instructions -/

/-- Who writes the Device State (R10's table): VREF only SETVREF and INIT; GAIN only SETGAIN, SRESET and INIT; DIV only
SETDIV, SRESET and INIT; INTREF only REFPD, SHUTDOWN and INIT ever change it (SRESET writes the value it has, R103). -/
def Obligations.OnlyNamedWritersChangeDeviceState : Prop :=
  ∀ (i : Instr) (s t : State), exec i s = .next t →
    (t.dev.vref ≠ s.dev.vref → (∃ a, i = .setvref a) ∨ i = .init) ∧
    (t.dev.gain ≠ s.dev.gain → (∃ g, i = .setgain g) ∨ i = .sreset ∨ i = .init) ∧
    (t.dev.div ≠ s.dev.div → (∃ g, i = .setdiv g) ∨ i = .sreset ∨ i = .init) ∧
    (t.dev.intref ≠ s.dev.intref → (∃ b, i = .refpd b) ∨ i = .shutdown ∨ i = .init)

/-- The frame of every instruction: the parameters (R5), the presented words and the reset input stay; the bus trace and
the responses only grow (R40, R44). -/
def Obligations.ExecFrame : Prop :=
  ∀ (i : Instr) (s t : State), exec i s = .next t →
    t.cfg = s.cfg ∧ t.requests = s.requests ∧ t.resetLine = s.resetLine ∧
    s.trace <+: t.trace ∧ s.responses <+: t.responses

/-- The operations without a transport call (R171): FGET, FSET, V2C, C2V, SETVREF and the no-op forms of SETGAIN and SETDIV
take no reply, make no call, and cannot end in TERR. -/
def Obligations.OperationsWithoutCallsCannotFail : Prop :=
  ∀ (i : Instr) (s t : State), exec i s = .next t →
    ((∃ fid w, i = .fget fid w) ∨ (∃ fid val w, i = .fset fid val w) ∨ (∃ a, i = .v2c a) ∨ (∃ c, i = .c2v c) ∨
      (∃ a, i = .setvref a) ∨ (∃ g, g ≠ 1#8 ∧ g ≠ 2#8 ∧ (i = .setgain g ∨ i = .setdiv g))) →
    t.answers = s.answers ∧ t.trace = s.trace ∧ t.phase = .idle ∧
    ∃ r, t.responses = s.responses ++ [r] ∧ r.status ≠ .terr

/-- The transaction counts of R212: when no call fails, and VREF is positive if the instruction is V2C or SETV, every
instruction completes with exactly its count of calls, one response, and that response not TERR. A call that does not fail
is a read answered with two bytes or more or a write answered `Ok` with any bytes or none, and replies past the
instruction's calls may be anything. FGET and FSET with an unknown field id complete with ILLEGAL (R173, log 14); a frame
run alone counts as one call (log 3). -/
def Obligations.TransactionCounts : Prop :=
  ∀ (i : Instr) (s : State), (∀ a, i = .v2c a ∨ i = .setv a → 0 < s.dev.vref) →
    callCount s.dev.intref i ≤ s.answers.length →
    (∀ c ∈ (callKinds s.dev.intref i).zip s.answers, c.1.error? c.2 = none) →
    ∃ t r, exec i s = .next t ∧ t.phase = .idle ∧ t.trace.length = s.trace.length + callCount s.dev.intref i ∧
      t.answers = s.answers.drop (callCount s.dev.intref i) ∧ t.responses = s.responses ++ [r] ∧ r.status ≠ .terr

/-- Nothing is buffered, merged, reordered, elided or retried (R40 item 2, R172 item 5): the calls an instruction records
are its calls of R212 in their order, from the first on, each once (a frame run alone is one call, log 3); each has taken
one reply of the transport, in the transport's order; none follows a failed call; and where the instruction is over and
none has failed, all of its calls were made. That a call is recorded when it is answered is the model's choice (log 22). -/
def Obligations.RepliesAreTakenInOrder : Prop :=
  ∀ (i : Instr) (s t : State), exec i s = .next t →
    ∃ new, t.trace = s.trace ++ new ∧ t.answers = s.answers.drop new.length ∧
      new.map TraceEntry.reply = (s.answers.take new.length).map some ∧
      new.map (fun c => c.call.kind?) <+: (callKinds s.dev.intref i).map some ∧
      (∀ c ∈ new.dropLast, c.error? = none) ∧
      (t.phase = .idle → (∀ c ∈ new, c.error? = none) → new.length = callCount s.dev.intref i)

/-- Without a reply an instruction that needs a call waits for it: no response, no call completed, and it ends idle exactly
when its count of calls is zero (R206, R212; log 2). That the pending call is not yet in the trace is the model's choice
(log 22). -/
def Obligations.WithoutReplyOperationWaits : Prop :=
  ∀ (i : Instr) (s t : State), s.answers = [] → exec i s = .next t →
    t.trace = s.trace ∧ (t.phase = .idle ↔ callCount s.dev.intref i = 0) ∧
    (t.phase ≠ .idle → t.responses = s.responses)

/-! ### Every step -/

/-- One response for each request (R40 item 4, R51): a step that is no reset keeps the number of words presented, in
progress and answered. -/
def Obligations.EveryRequestIsAnsweredOnce : Prop :=
  ∀ s t : State, s.resetLine = false → step s = .next t → t.accounted = s.accounted

/-- One operation at a time (R203): while one is in progress nothing presented is accepted, and a response is produced
exactly when the operation is over. -/
def Obligations.BusyBlockAcceptsNothing : Prop :=
  ∀ (s t : State) (reg : U16) (ms : List Micro) (ret : Ret), s.resetLine = false → s.phase = .busy reg ms ret →
    step s = .next t →
    t.requests = s.requests ∧ (t.phase = .idle → ∃ r, t.responses = s.responses ++ [r]) ∧
      (t.phase ≠ .idle → t.responses = s.responses)

/-- Blocking is not observable in the result (R36, R40): if an operation waits for a reply and the replies come later, the
next step ends where the operation would have ended had they been there from the start; if it did not wait, later
replies change nothing. That a call that has not returned is an empty reply queue is the model's log 2. -/
def Obligations.LateRepliesGiveTheSameResult : Prop :=
  ∀ (i : Instr) (s t u : State) (early late : List Reply), s.resetLine = false →
    exec i { s with answers := early ++ late } = .next t → exec i { s with answers := early } = .next u →
    (u.phase = .idle → t = { u with answers := u.answers ++ late }) ∧
    (u.phase ≠ .idle → u.answers = [] ∧ step { u with answers := late } = .next t)

/-- The parameters are fixed when an instance is built and never change afterwards (R5). -/
def Obligations.StepKeepsParameters : Prop :=
  ∀ s t : State, step s = .next t → t.cfg = s.cfg

/-- The invariant every step keeps: VREF is a voltage a request can carry (R54, R132), an operation in progress stands at a
transport call (R27), every call on the bus has one of the two shapes of R36 and goes to ADDR (R7), every response is
well-formed (R56). -/
def Obligations.StepKeepsInvariant : Prop :=
  ∀ s t : State, s.Inv → step s = .next t → t.Inv

/-- The state after reset meets the invariant. -/
def Obligations.ResetMeetsInvariant : Prop := State.reset.Inv

/-- The state after reset (R28): VREF 2.5, GAIN 2, DIV 1, INTREF false (D10), N 16, idle. That nothing is presented or
recorded is the model's log 15, ADDR 0x48 its log 5. -/
def Obligations.ResetState : Prop :=
  State.reset.dev = ⟨5 / 2, .two, .one, false⟩ ∧ State.reset.cfg.n = 16 ∧ State.reset.cfg.addr = 0x48#8 ∧
  State.reset.phase = .idle ∧ State.reset.resetLine = false ∧ State.reset.requests = [] ∧ State.reset.answers = [] ∧
  State.reset.trace = [] ∧ State.reset.responses = []
end

