-- ==== Sys2Proof/Laws/Convert.lean ====
section
/-! SUPPORT. The conversion functions in a form that arithmetic tactics can use: the voltage operand as a quotient, `v2c` as
one floor of a ratio to the code step, and the numbers that DAC-DATA words are. -/

namespace Sys2Proof.Machine

theorem volt_eq (a : U32) : volt a = (a.toInt : Rat) / 65536 := by
  simp [volt, Config.vfrac, Rat.mkRat_eq_div]

/-- A gain or divider is a positive number. -/
theorem factor_val_pos (f : Factor) : (0 : Rat) < (f.val : Rat) := by cases f <;> simp [Factor.val]

theorem half_eq : mkRat 1 2 = (1 / 2 : Rat) := by decide +kernel

/-- Full scale is positive with VREF. -/
theorem fullscale_pos {d : DeviceState} (h : 0 < d.vref) : 0 < d.fullscale := by
  have hg := factor_val_pos d.gain
  have hd := factor_val_pos d.div
  unfold DeviceState.fullscale
  positivity

/-- Clamping the voltage and then scaling it is clamping the ratio of the voltage to the code step (R121, R122). -/
theorem scale_clamp_eq (n : Nat) {d : DeviceState} (v : Rat) (h : 0 < d.vref) :
    scaleVolt n d (clampVolt d.fullscale v) = min (max v 0 / d.lsb n) (2 ^ n) := by
  have hg := factor_val_pos d.gain
  have hd := factor_val_pos d.div
  have hn : (0 : Rat) < 2 ^ n := by positivity
  have hfs := fullscale_pos h
  have hfl : d.fullscale = 2 ^ n * d.lsb n := by unfold DeviceState.lsb; field_simp
  have hl : 0 < d.lsb n := by unfold DeviceState.lsb; positivity
  have hs : ∀ x, scaleVolt n d x = x / d.lsb n := by
    intro x
    unfold scaleVolt DeviceState.lsb DeviceState.fullscale
    field_simp
  rw [hs]
  unfold clampVolt
  split
  · rename_i h0
    simp [max_eq_right h0.le]
  · rename_i h0
    rw [max_eq_left (not_lt.mp h0)]
    split
    · rename_i h1
      rw [min_eq_right ((le_div_iff₀ hl).mpr (hfl ▸ h1)), hfl]
      field_simp
    · rename_i h1
      rw [min_eq_left ((div_le_iff₀ hl).mpr (hfl ▸ (not_le.mp h1).le))]

/-- `v2c` as one floor (R122 to R124). -/
theorem v2c_eq (n : Nat) {d : DeviceState} (v : Rat) (h : 0 < d.vref) :
    v2c n d v = min ⌊min (max v 0 / d.lsb n) (2 ^ n) + 1 / 2⌋.toNat (2 ^ n - 1) := by
  unfold v2c
  simp only [half_eq, scale_clamp_eq n v h]
  rfl

/-- `c2v` is the code times the code step (R121, R127). -/
theorem c2v_eq (n : Nat) (d : DeviceState) (c : Nat) : c2v n d c = c * d.lsb n := by
  have hd := factor_val_pos d.div
  unfold c2v DeviceState.lsb DeviceState.fullscale
  field_simp

/-- The number a code's DAC-DATA word is (R63, R125). -/
theorem toword_toNat {n c : Nat} (hn : n ≤ 16) (hc : c < 2 ^ n) : (toword n c).toNat = c * 2 ^ (16 - n) := by
  have e : 2 ^ n * 2 ^ (16 - n) = 65536 := by rw [← pow_add, show n + (16 - n) = 16 by omega]; rfl
  have hp : 0 < 2 ^ (16 - n) := by positivity
  have hlt : c * 2 ^ (16 - n) < 65536 := e ▸ Nat.mul_lt_mul_of_pos_right hc hp
  have hc2 : c < 65536 := lt_of_le_of_lt (Nat.le_mul_of_pos_right _ hp) hlt
  simp [toword, Nat.shiftLeft_eq, Nat.mod_eq_of_lt hc2, Nat.mod_eq_of_lt hlt]

/-- The code of a DAC-DATA word as a number (R63, R126). -/
theorem fromword_eq (n : Nat) (w : U16) : fromword n w = w.toNat / 2 ^ (16 - n) := by
  simp [fromword, Nat.shiftRight_eq_div_pow]

end Sys2Proof.Machine
end

