-- ==== Sys2Proof/Laws/Decode.lean ====
section
/-! SUPPORT. The selector and the argument of a request word come back from it; a frame's command byte and value come
back from it; a word's bits under a row's mask. -/

namespace Sys2Proof

theorem append_high {n m : Nat} (x : BitVec n) (y : BitVec m) : (x ++ y).extractLsb' m n = x := by
  ext i hi; simp [BitVec.getLsbD_append, BitVec.getLsbD_eq_getElem hi]

theorem append_low {n m : Nat} (x : BitVec n) (y : BitVec m) : (x ++ y).extractLsb' 0 m = y := by
  ext i hi; simp [BitVec.getLsbD_append, hi]

@[simp] theorem opOf_append (op : Byte) (a : U32) : opOf (op ++ a) = op := append_high op a

@[simp] theorem argOf_append (op : Byte) (a : U32) : argOf (op ++ a) = a := append_low op a

@[simp] theorem frame_cmd (cmd : Byte) (v : U16) : (cmd ++ v).extractLsb' 16 8 = cmd := append_high cmd v

@[simp] theorem frame_value (cmd : Byte) (v : U16) : (cmd ++ v).extractLsb' 0 16 = v := append_low cmd v

theorem append3_high {n m k : Nat} (x : BitVec n) (y : BitVec m) (z : BitVec k) :
    (x ++ y ++ z).extractLsb' (m + k) n = x := by
  ext i hi
  simp [BitVec.getLsbD_append, BitVec.getLsbD_eq_getElem hi, show ¬ m + k + i < k by omega,
    show m + k + i - k = m + i by omega]

theorem append3_mid {n m k : Nat} (x : BitVec n) (y : BitVec m) (z : BitVec k) :
    (x ++ y ++ z).extractLsb' k m = y := by
  ext i hi; simp [BitVec.getLsbD_append, hi]

/-- Any word is its high part followed by its low part. -/
theorem split_append {n m : Nat} (w : BitVec (n + m)) : w = w.extractLsb' m n ++ w.extractLsb' 0 m := by
  simp

/-- Any frame is its command byte followed by its value (R58). -/
theorem frame_split (w : BitVec 24) : ∃ (cmd : Byte) (v : U16), w = cmd ++ v :=
  ⟨_, _, split_append (n := 8) (m := 16) w⟩

/-- The high part of an appended word under a mask that covers just that part. -/
theorem append_masked {n m : Nat} (x : BitVec n) (y : BitVec m) :
    (x ++ y).toNat &&& ((2 ^ n - 1) <<< m) = x.toNat <<< m := by
  apply Nat.eq_of_testBit_eq
  intro i
  simp only [BitVec.toNat_append, Nat.testBit_and, Nat.testBit_or, Nat.testBit_shiftLeft, Nat.testBit_two_pow_sub_one]
  by_cases h : m ≤ i
  · simp only [h, decide_true, Bool.true_and, BitVec.testBit_toNat, BitVec.getLsbD_of_ge y i h, Bool.or_false]
    by_cases hn : i - m < n
    · simp [hn]
    · simp [BitVec.getLsbD_of_ge x (i - m) (by omega)]
  · simp [h]

/-- A request word's bits under the mask of `op` (R51). -/
theorem reqWord_masked (op : Byte) (a : U32) : (op ++ a).toNat &&& 0xFF00000000 = op.toNat <<< 32 :=
  append_masked op a

/-- A write frame's bits under the mask of `cmd` (R58). -/
theorem frame_masked (cmd : Byte) (v : U16) : (cmd ++ v).toNat &&& 0xFF0000 = cmd.toNat <<< 16 :=
  append_masked cmd v

end Sys2Proof
end

