-- ==== Sys2Proof/Machine/Ports.lean ====
section
/-! DEFINITION. What the outside world does to the block: the request port (R51), the transport's replies (R36), the
reset input (R190), the status outputs (R29). No step of the block calls these. -/

namespace Sys2Proof.Machine

/-- The host presents a word; the block accepts it when idle (R51, R203). -/
def State.present (w : PortWord) (s : State) : State := { s with requests := s.requests ++ [w] }

/-- The transport gives its next reply (R36, R206). -/
def State.deliver (r : Reply) (s : State) : State := { s with answers := s.answers ++ [r] }

/-- The reset input is asserted (R190). -/
def State.assertReset (s : State) : State := { s with resetLine := true }

/-- The status outputs: the four registers, continuously visible, no side effect (R29, D21). -/
def State.statusOutputs (s : State) : DeviceState := s.dev

end Sys2Proof.Machine
end

