-- ==== Sys2Proof/Laws/State.lean ====
section
/-! SUPPORT. One lemma per field for every update of the state, so that no proof unfolds a record update. -/

namespace Sys2Proof.Machine


/-! ### Ending an operation -/

@[simp] theorem State.respond_cfg (r : Response) (s : State) : (s.respond r).cfg = s.cfg := rfl
@[simp] theorem State.respond_dev (r : Response) (s : State) : (s.respond r).dev = s.dev := rfl
@[simp] theorem State.respond_phase (r : Response) (s : State) : (s.respond r).phase = .idle := rfl
@[simp] theorem State.respond_resetLine (r : Response) (s : State) : (s.respond r).resetLine = s.resetLine := rfl
@[simp] theorem State.respond_requests (r : Response) (s : State) : (s.respond r).requests = s.requests := rfl
@[simp] theorem State.respond_answers (r : Response) (s : State) : (s.respond r).answers = s.answers := rfl
@[simp] theorem State.respond_trace (r : Response) (s : State) : (s.respond r).trace = s.trace := rfl
@[simp] theorem State.respond_responses (r : Response) (s : State) : (s.respond r).responses = s.responses ++ [r] := rfl

/-! ### Status OK -/

@[simp] theorem State.respondOk_cfg (w : U64) (s : State) : (s.respondOk w).cfg = s.cfg := rfl
@[simp] theorem State.respondOk_dev (w : U64) (s : State) : (s.respondOk w).dev = s.dev := rfl
@[simp] theorem State.respondOk_phase (w : U64) (s : State) : (s.respondOk w).phase = .idle := rfl
@[simp] theorem State.respondOk_resetLine (w : U64) (s : State) : (s.respondOk w).resetLine = s.resetLine := rfl
@[simp] theorem State.respondOk_requests (w : U64) (s : State) : (s.respondOk w).requests = s.requests := rfl
@[simp] theorem State.respondOk_answers (w : U64) (s : State) : (s.respondOk w).answers = s.answers := rfl
@[simp] theorem State.respondOk_trace (w : U64) (s : State) : (s.respondOk w).trace = s.trace := rfl
@[simp] theorem State.respondOk_responses (w : U64) (s : State) : (s.respondOk w).responses = s.responses ++ [okResp w] := rfl

/-! ### Status TERR -/

@[simp] theorem State.raiseTransport_cfg (e : TransportError) (s : State) : (s.raiseTransport e).cfg = s.cfg := rfl
@[simp] theorem State.raiseTransport_dev (e : TransportError) (s : State) : (s.raiseTransport e).dev = s.dev := rfl
@[simp] theorem State.raiseTransport_phase (e : TransportError) (s : State) : (s.raiseTransport e).phase = .idle := rfl
@[simp] theorem State.raiseTransport_resetLine (e : TransportError) (s : State) : (s.raiseTransport e).resetLine = s.resetLine := rfl
@[simp] theorem State.raiseTransport_requests (e : TransportError) (s : State) : (s.raiseTransport e).requests = s.requests := rfl
@[simp] theorem State.raiseTransport_answers (e : TransportError) (s : State) : (s.raiseTransport e).answers = s.answers := rfl
@[simp] theorem State.raiseTransport_trace (e : TransportError) (s : State) : (s.raiseTransport e).trace = s.trace := rfl
@[simp] theorem State.raiseTransport_responses (e : TransportError) (s : State) : (s.raiseTransport e).responses = s.responses ++ [terrResp e] := rfl

/-! ### Status ILLEGAL -/

@[simp] theorem State.raiseIllegal_cfg (s : State) : (s.raiseIllegal).cfg = s.cfg := rfl
@[simp] theorem State.raiseIllegal_dev (s : State) : (s.raiseIllegal).dev = s.dev := rfl
@[simp] theorem State.raiseIllegal_phase (s : State) : (s.raiseIllegal).phase = .idle := rfl
@[simp] theorem State.raiseIllegal_resetLine (s : State) : (s.raiseIllegal).resetLine = s.resetLine := rfl
@[simp] theorem State.raiseIllegal_requests (s : State) : (s.raiseIllegal).requests = s.requests := rfl
@[simp] theorem State.raiseIllegal_answers (s : State) : (s.raiseIllegal).answers = s.answers := rfl
@[simp] theorem State.raiseIllegal_trace (s : State) : (s.raiseIllegal).trace = s.trace := rfl
@[simp] theorem State.raiseIllegal_responses (s : State) : (s.raiseIllegal).responses = s.responses ++ [illegalResp] := rfl

/-! ### Writing a Device State register -/

@[simp] theorem State.mirror_cfg (w : DevWrite) (s : State) : (s.mirror w).cfg = s.cfg := rfl
@[simp] theorem State.mirror_dev (w : DevWrite) (s : State) : (s.mirror w).dev = s.dev.apply w := rfl
@[simp] theorem State.mirror_phase (w : DevWrite) (s : State) : (s.mirror w).phase = s.phase := rfl
@[simp] theorem State.mirror_resetLine (w : DevWrite) (s : State) : (s.mirror w).resetLine = s.resetLine := rfl
@[simp] theorem State.mirror_requests (w : DevWrite) (s : State) : (s.mirror w).requests = s.requests := rfl
@[simp] theorem State.mirror_answers (w : DevWrite) (s : State) : (s.mirror w).answers = s.answers := rfl
@[simp] theorem State.mirror_trace (w : DevWrite) (s : State) : (s.mirror w).trace = s.trace := rfl
@[simp] theorem State.mirror_responses (w : DevWrite) (s : State) : (s.mirror w).responses = s.responses := rfl

/-! ### Waiting for the transport -/

@[simp] theorem State.wait_cfg (reg : U16) (ms : List Micro) (ret : Ret) (s : State) : (s.wait reg ms ret).cfg = s.cfg := rfl
@[simp] theorem State.wait_dev (reg : U16) (ms : List Micro) (ret : Ret) (s : State) : (s.wait reg ms ret).dev = s.dev := rfl
@[simp] theorem State.wait_phase (reg : U16) (ms : List Micro) (ret : Ret) (s : State) : (s.wait reg ms ret).phase = .busy reg ms ret := rfl
@[simp] theorem State.wait_resetLine (reg : U16) (ms : List Micro) (ret : Ret) (s : State) : (s.wait reg ms ret).resetLine = s.resetLine := rfl
@[simp] theorem State.wait_requests (reg : U16) (ms : List Micro) (ret : Ret) (s : State) : (s.wait reg ms ret).requests = s.requests := rfl
@[simp] theorem State.wait_answers (reg : U16) (ms : List Micro) (ret : Ret) (s : State) : (s.wait reg ms ret).answers = s.answers := rfl
@[simp] theorem State.wait_trace (reg : U16) (ms : List Micro) (ret : Ret) (s : State) : (s.wait reg ms ret).trace = s.trace := rfl
@[simp] theorem State.wait_responses (reg : U16) (ms : List Micro) (ret : Ret) (s : State) : (s.wait reg ms ret).responses = s.responses := rfl

/-! ### A finished operation -/

@[simp] theorem State.after_cfg (d : DeviceState) (as : List Reply) (calls : List TraceEntry) (r : Response) (s : State) : (s.after d as calls r).cfg = s.cfg := rfl
@[simp] theorem State.after_dev (d : DeviceState) (as : List Reply) (calls : List TraceEntry) (r : Response) (s : State) : (s.after d as calls r).dev = d := rfl
@[simp] theorem State.after_phase (d : DeviceState) (as : List Reply) (calls : List TraceEntry) (r : Response) (s : State) : (s.after d as calls r).phase = .idle := rfl
@[simp] theorem State.after_resetLine (d : DeviceState) (as : List Reply) (calls : List TraceEntry) (r : Response) (s : State) : (s.after d as calls r).resetLine = s.resetLine := rfl
@[simp] theorem State.after_requests (d : DeviceState) (as : List Reply) (calls : List TraceEntry) (r : Response) (s : State) : (s.after d as calls r).requests = s.requests := rfl
@[simp] theorem State.after_answers (d : DeviceState) (as : List Reply) (calls : List TraceEntry) (r : Response) (s : State) : (s.after d as calls r).answers = as := rfl
@[simp] theorem State.after_trace (d : DeviceState) (as : List Reply) (calls : List TraceEntry) (r : Response) (s : State) : (s.after d as calls r).trace = s.trace ++ calls := rfl
@[simp] theorem State.after_responses (d : DeviceState) (as : List Reply) (calls : List TraceEntry) (r : Response) (s : State) : (s.after d as calls r).responses = s.responses ++ [r] := rfl

/-! ### Hardware reset -/

@[simp] theorem State.hardReset_cfg (s : State) : (s.hardReset).cfg = s.cfg := rfl
@[simp] theorem State.hardReset_dev (s : State) : (s.hardReset).dev = DeviceState.reset := rfl
@[simp] theorem State.hardReset_phase (s : State) : (s.hardReset).phase = .idle := rfl
@[simp] theorem State.hardReset_resetLine (s : State) : (s.hardReset).resetLine = false := rfl
@[simp] theorem State.hardReset_requests (s : State) : (s.hardReset).requests = s.requests := rfl
@[simp] theorem State.hardReset_answers (s : State) : (s.hardReset).answers = s.answers := rfl
@[simp] theorem State.hardReset_trace (s : State) : (s.hardReset).trace = s.trace ++ ((s.phase.pendingCall? s.cfg.addr).map fun c => ⟨c, none⟩).toList := rfl
@[simp] theorem State.hardReset_responses (s : State) : (s.hardReset).responses = s.responses := rfl

/-! ### Placing a word -/

@[simp] theorem State.withPortWord_cfg (w : PortWord) (s : State) : (s.withPortWord w).cfg = s.cfg := rfl
@[simp] theorem State.withPortWord_dev (w : PortWord) (s : State) : (s.withPortWord w).dev = s.dev := rfl
@[simp] theorem State.withPortWord_phase (w : PortWord) (s : State) : (s.withPortWord w).phase = .idle := rfl
@[simp] theorem State.withPortWord_resetLine (w : PortWord) (s : State) : (s.withPortWord w).resetLine = false := rfl
@[simp] theorem State.withPortWord_requests (w : PortWord) (s : State) : (s.withPortWord w).requests = w :: s.requests := rfl
@[simp] theorem State.withPortWord_answers (w : PortWord) (s : State) : (s.withPortWord w).answers = s.answers := rfl
@[simp] theorem State.withPortWord_trace (w : PortWord) (s : State) : (s.withPortWord w).trace = s.trace := rfl
@[simp] theorem State.withPortWord_responses (w : PortWord) (s : State) : (s.withPortWord w).responses = s.responses := rfl

/-! ### The host presents a word -/

@[simp] theorem State.present_cfg (w : PortWord) (s : State) : (s.present w).cfg = s.cfg := rfl
@[simp] theorem State.present_dev (w : PortWord) (s : State) : (s.present w).dev = s.dev := rfl
@[simp] theorem State.present_phase (w : PortWord) (s : State) : (s.present w).phase = s.phase := rfl
@[simp] theorem State.present_resetLine (w : PortWord) (s : State) : (s.present w).resetLine = s.resetLine := rfl
@[simp] theorem State.present_requests (w : PortWord) (s : State) : (s.present w).requests = s.requests ++ [w] := rfl
@[simp] theorem State.present_answers (w : PortWord) (s : State) : (s.present w).answers = s.answers := rfl
@[simp] theorem State.present_trace (w : PortWord) (s : State) : (s.present w).trace = s.trace := rfl
@[simp] theorem State.present_responses (w : PortWord) (s : State) : (s.present w).responses = s.responses := rfl

/-! ### The transport replies -/

@[simp] theorem State.deliver_cfg (r : Reply) (s : State) : (s.deliver r).cfg = s.cfg := rfl
@[simp] theorem State.deliver_dev (r : Reply) (s : State) : (s.deliver r).dev = s.dev := rfl
@[simp] theorem State.deliver_phase (r : Reply) (s : State) : (s.deliver r).phase = s.phase := rfl
@[simp] theorem State.deliver_resetLine (r : Reply) (s : State) : (s.deliver r).resetLine = s.resetLine := rfl
@[simp] theorem State.deliver_requests (r : Reply) (s : State) : (s.deliver r).requests = s.requests := rfl
@[simp] theorem State.deliver_answers (r : Reply) (s : State) : (s.deliver r).answers = s.answers ++ [r] := rfl
@[simp] theorem State.deliver_trace (r : Reply) (s : State) : (s.deliver r).trace = s.trace := rfl
@[simp] theorem State.deliver_responses (r : Reply) (s : State) : (s.deliver r).responses = s.responses := rfl

/-! ### Reset is asserted -/

@[simp] theorem State.assertReset_cfg (s : State) : (s.assertReset).cfg = s.cfg := rfl
@[simp] theorem State.assertReset_dev (s : State) : (s.assertReset).dev = s.dev := rfl
@[simp] theorem State.assertReset_phase (s : State) : (s.assertReset).phase = s.phase := rfl
@[simp] theorem State.assertReset_resetLine (s : State) : (s.assertReset).resetLine = true := rfl
@[simp] theorem State.assertReset_requests (s : State) : (s.assertReset).requests = s.requests := rfl
@[simp] theorem State.assertReset_answers (s : State) : (s.assertReset).answers = s.answers := rfl
@[simp] theorem State.assertReset_trace (s : State) : (s.assertReset).trace = s.trace := rfl
@[simp] theorem State.assertReset_responses (s : State) : (s.assertReset).responses = s.responses := rfl

/-! ### The Device State -/

@[simp] theorem DeviceState.apply_vref_vref (v : Rat) (d : DeviceState) : (d.apply (.vref v)).vref = v := rfl
@[simp] theorem DeviceState.apply_vref_gain (v : Rat) (d : DeviceState) : (d.apply (.vref v)).gain = d.gain := rfl
@[simp] theorem DeviceState.apply_vref_div (v : Rat) (d : DeviceState) : (d.apply (.vref v)).div = d.div := rfl
@[simp] theorem DeviceState.apply_vref_intref (v : Rat) (d : DeviceState) : (d.apply (.vref v)).intref = d.intref := rfl
@[simp] theorem DeviceState.apply_gain_vref (g : Factor) (d : DeviceState) : (d.apply (.gain g)).vref = d.vref := rfl
@[simp] theorem DeviceState.apply_gain_gain (g : Factor) (d : DeviceState) : (d.apply (.gain g)).gain = g := rfl
@[simp] theorem DeviceState.apply_gain_div (g : Factor) (d : DeviceState) : (d.apply (.gain g)).div = d.div := rfl
@[simp] theorem DeviceState.apply_gain_intref (g : Factor) (d : DeviceState) : (d.apply (.gain g)).intref = d.intref := rfl
@[simp] theorem DeviceState.apply_div_vref (k : Factor) (d : DeviceState) : (d.apply (.div k)).vref = d.vref := rfl
@[simp] theorem DeviceState.apply_div_gain (k : Factor) (d : DeviceState) : (d.apply (.div k)).gain = d.gain := rfl
@[simp] theorem DeviceState.apply_div_div (k : Factor) (d : DeviceState) : (d.apply (.div k)).div = k := rfl
@[simp] theorem DeviceState.apply_div_intref (k : Factor) (d : DeviceState) : (d.apply (.div k)).intref = d.intref := rfl
@[simp] theorem DeviceState.apply_intref_vref (b : Bool) (d : DeviceState) : (d.apply (.intref b)).vref = d.vref := rfl
@[simp] theorem DeviceState.apply_intref_gain (b : Bool) (d : DeviceState) : (d.apply (.intref b)).gain = d.gain := rfl
@[simp] theorem DeviceState.apply_intref_div (b : Bool) (d : DeviceState) : (d.apply (.intref b)).div = d.div := rfl
@[simp] theorem DeviceState.apply_intref_intref (b : Bool) (d : DeviceState) : (d.apply (.intref b)).intref = b := rfl

end Sys2Proof.Machine
end

