-- ==== Sys2Proof/Laws/Ops.lean ====
section
/-! SUPPORT. The laws of the shared operations: what a transaction can do, the equations of running an operation's
steps, and, said once, everything that running them can change. -/

namespace Sys2Proof.Machine

/-! ### Replies -/

theorem Reply.readResult_eq (r : Reply) :
    r.readResult = match r with
      | .ok (hi :: lo :: _) => .ok (fromBytes hi lo)
      | .ok _ => .error .shortRead
      | .err e => .error e := by
  rcases r with (_ | ⟨_, _ | ⟨_, _⟩⟩) | _ <;> rfl

@[simp] theorem Reply.readResult_ok (hi lo : Byte) (tl : List Byte) :
    (Reply.ok (hi :: lo :: tl)).readResult = .ok (fromBytes hi lo) := rfl

@[simp] theorem Reply.readResult_err (e : TransportError) : (Reply.err e).readResult = .error e := rfl

@[simp] theorem Reply.writeResult_ok (bytes : List Byte) : (Reply.ok bytes).writeResult = .ok () := rfl

@[simp] theorem Reply.writeResult_err (e : TransportError) : (Reply.err e).writeResult = .error e := rfl

/-- A read fails exactly when its reply has a read error, and with that error. -/
theorem Reply.readResult_cases (r : Reply) :
    (∃ w, r.readResult = .ok w ∧ r.readError? = none) ∨ (∃ e, r.readResult = .error e ∧ r.readError? = some e) := by
  rcases r with (_ | ⟨_, _ | ⟨_, _⟩⟩) | _ <;> simp [Reply.readResult, Reply.readError?]

/-- A write fails exactly when its reply has a write error, and with that error. -/
theorem Reply.writeResult_cases (r : Reply) :
    (r.writeResult = .ok () ∧ r.writeError? = none) ∨ (∃ e, r.writeResult = .error e ∧ r.writeError? = some e) := by
  rcases r with _ | _ <;> simp [Reply.writeResult, Reply.writeError?]

/-- A reply that fails no read carries a word. -/
theorem Reply.readError?_eq_none {r : Reply} (h : r.readError? = none) : ∃ hi lo tl, r = .ok (hi :: lo :: tl) := by
  rcases r with (_ | ⟨hi, _ | ⟨lo, tl⟩⟩) | _ <;> simp_all [Reply.readError?]

/-- A reply that fails no write is `Ok`. -/
theorem Reply.writeError?_eq_none {r : Reply} (h : r.writeError? = none) : ∃ bytes, r = .ok bytes := by
  rcases r with bytes | e
  · exact ⟨bytes, rfl⟩
  · simp [Reply.writeError?] at h

/-! ### Transactions -/

/-- The state after the transport has answered a call with `r`, `rest` being the replies left over. -/
def State.called (call : TxCall) (r : Reply) (rest : List Reply) (s : State) : State :=
  { s with answers := rest, trace := s.trace ++ [⟨call, some r⟩] }

@[simp] theorem State.called_cfg (c : TxCall) (r : Reply) (as : List Reply) (s : State) : (s.called c r as).cfg = s.cfg := rfl
@[simp] theorem State.called_dev (c : TxCall) (r : Reply) (as : List Reply) (s : State) : (s.called c r as).dev = s.dev := rfl
@[simp] theorem State.called_phase (c : TxCall) (r : Reply) (as : List Reply) (s : State) :
    (s.called c r as).phase = s.phase := rfl
@[simp] theorem State.called_resetLine (c : TxCall) (r : Reply) (as : List Reply) (s : State) :
    (s.called c r as).resetLine = s.resetLine := rfl
@[simp] theorem State.called_requests (c : TxCall) (r : Reply) (as : List Reply) (s : State) :
    (s.called c r as).requests = s.requests := rfl
@[simp] theorem State.called_answers (c : TxCall) (r : Reply) (as : List Reply) (s : State) : (s.called c r as).answers = as := rfl
@[simp] theorem State.called_trace (c : TxCall) (r : Reply) (as : List Reply) (s : State) :
    (s.called c r as).trace = s.trace ++ [⟨c, some r⟩] := rfl
@[simp] theorem State.called_responses (c : TxCall) (r : Reply) (as : List Reply) (s : State) :
    (s.called c r as).responses = s.responses := rfl

theorem regRead_nil {cmd : Byte} {s : State} (h : s.answers = []) : regRead cmd s = none := by
  simp [regRead, transact, h]

theorem regRead_cons {cmd : Byte} {s : State} {r : Reply} {rest : List Reply} (h : s.answers = r :: rest) :
    regRead cmd s = some (r.readResult, s.called (readCall s.cfg.addr cmd) r rest) := by
  simp [regRead, transact, h, State.called]

theorem regWrite_nil {cmd : Byte} {v : U16} {s : State} (h : s.answers = []) : regWrite cmd v s = none := by
  simp [regWrite, transact, h]

theorem regWrite_cons {cmd : Byte} {v : U16} {s : State} {r : Reply} {rest : List Reply} (h : s.answers = r :: rest) :
    regWrite cmd v s = some (r.writeResult, s.called (writeCall s.cfg.addr cmd v) r rest) := by
  simp [regWrite, transact, h, State.called]

/-! ### The equations of running an operation's steps -/

section
variable {ms : List Micro} {reg : U16} {ret : Ret} {s : State}

@[simp] theorem runSteps_nil : runSteps [] reg ret s = s.respondOk (ret.value s.cfg.n s.dev reg) := rfl

@[simp] theorem runSteps_load {v : U16} : runSteps (.load v :: ms) reg ret s = runSteps ms v ret s := rfl

@[simp] theorem runSteps_modify {f : Field} {x : U16} :
    runSteps (.modify f x :: ms) reg ret s = runSteps ms (f.set reg x) ret s := rfl

@[simp] theorem runSteps_mirror {w : DevWrite} :
    runSteps (.mirror w :: ms) reg ret s = runSteps ms reg ret (s.mirror w) := rfl

theorem runSteps_read_nil {cmd : Byte} (h : s.answers = []) :
    runSteps (.read cmd :: ms) reg ret s = s.wait reg (.read cmd :: ms) ret := by
  simp [runSteps, regRead_nil h]

theorem runSteps_read_ok {cmd : Byte} {r : Reply} {rest : List Reply} {w : U16} (h : s.answers = r :: rest)
    (hr : r.readResult = .ok w) :
    runSteps (.read cmd :: ms) reg ret s = runSteps ms w ret (s.called (readCall s.cfg.addr cmd) r rest) := by
  simp [runSteps, regRead_cons h, hr]

theorem runSteps_read_err {cmd : Byte} {r : Reply} {rest : List Reply} {e : TransportError} (h : s.answers = r :: rest)
    (hr : r.readResult = .error e) :
    runSteps (.read cmd :: ms) reg ret s = (s.called (readCall s.cfg.addr cmd) r rest).raiseTransport e := by
  simp [runSteps, regRead_cons h, hr]

theorem runSteps_write_nil {cmd : Byte} (h : s.answers = []) :
    runSteps (.write cmd :: ms) reg ret s = s.wait reg (.write cmd :: ms) ret := by
  simp [runSteps, regWrite_nil h]

theorem runSteps_write_ok {cmd : Byte} {r : Reply} {rest : List Reply} (h : s.answers = r :: rest)
    (hr : r.writeResult = .ok ()) :
    runSteps (.write cmd :: ms) reg ret s = runSteps ms reg ret (s.called (writeCall s.cfg.addr cmd reg) r rest) := by
  simp [runSteps, regWrite_cons h, hr]

theorem runSteps_write_err {cmd : Byte} {r : Reply} {rest : List Reply} {e : TransportError} (h : s.answers = r :: rest)
    (hr : r.writeResult = .error e) :
    runSteps (.write cmd :: ms) reg ret s = (s.called (writeCall s.cfg.addr cmd reg) r rest).raiseTransport e := by
  simp [runSteps, regWrite_cons h, hr]

end

/-- The shape of induction over a run: a property of (steps, REG, state, end state) that holds at the three ends and is
carried back over each step holds of every run. -/
theorem runSteps_induct {P : List Micro → U16 → State → State → Prop} (ret : Ret)
    (nil : ∀ reg s, P [] reg s (s.respondOk (ret.value s.cfg.n s.dev reg)))
    (load : ∀ v ms reg s t, P ms v s t → P (.load v :: ms) reg s t)
    (modify : ∀ f x ms reg s t, P ms (f.set reg x) s t → P (.modify f x :: ms) reg s t)
    (mirror : ∀ w ms reg s t, P ms reg (s.mirror w) t → P (.mirror w :: ms) reg s t)
    (readWait : ∀ cmd ms reg s, s.answers = [] → P (.read cmd :: ms) reg s (s.wait reg (.read cmd :: ms) ret))
    (readOk : ∀ cmd ms reg s r rest w t, s.answers = r :: rest → r.readResult = .ok w →
      P ms w (s.called (readCall s.cfg.addr cmd) r rest) t → P (.read cmd :: ms) reg s t)
    (readErr : ∀ cmd ms reg s r rest e, s.answers = r :: rest → r.readResult = .error e →
      P (.read cmd :: ms) reg s ((s.called (readCall s.cfg.addr cmd) r rest).raiseTransport e))
    (writeWait : ∀ cmd ms reg s, s.answers = [] → P (.write cmd :: ms) reg s (s.wait reg (.write cmd :: ms) ret))
    (writeOk : ∀ cmd ms reg s r rest t, s.answers = r :: rest → r.writeResult = .ok () →
      P ms reg (s.called (writeCall s.cfg.addr cmd reg) r rest) t → P (.write cmd :: ms) reg s t)
    (writeErr : ∀ cmd ms reg s r rest e, s.answers = r :: rest → r.writeResult = .error e →
      P (.write cmd :: ms) reg s ((s.called (writeCall s.cfg.addr cmd reg) r rest).raiseTransport e)) :
    ∀ ms reg s, P ms reg s (runSteps ms reg ret s) := by
  intro ms
  induction ms with
  | nil => exact nil
  | cons m ms ih =>
    intro reg s
    cases m with
    | load v => exact load v ms reg s _ (ih v s)
    | modify f x => exact modify f x ms reg s _ (ih _ s)
    | mirror w => exact mirror w ms reg s _ (ih reg _)
    | read cmd =>
      cases h : s.answers with
      | nil => rw [runSteps_read_nil h]; exact readWait cmd ms reg s h
      | cons r rest =>
        rcases r.readResult_cases with ⟨w, hw, _⟩ | ⟨e, he, _⟩
        · rw [runSteps_read_ok h hw]; exact readOk cmd ms reg s r rest w _ h hw (ih _ _)
        · rw [runSteps_read_err h he]; exact readErr cmd ms reg s r rest e h he
    | write cmd =>
      cases h : s.answers with
      | nil => rw [runSteps_write_nil h]; exact writeWait cmd ms reg s h
      | cons r rest =>
        rcases r.writeResult_cases with ⟨hw, _⟩ | ⟨e, he, _⟩
        · rw [runSteps_write_ok h hw]; exact writeOk cmd ms reg s r rest _ h hw (ih _ _)
        · rw [runSteps_write_err h he]; exact writeErr cmd ms reg s r rest e h he

/-- Everything running an operation's steps can do: the parameters, the reset input and the presented words stay; it
takes `k` replies in order and records each with its call; it ends idle with one response more, or waits with the
responses as they were and no reply left. -/
structure Ran (s t : State) : Prop where
  cfg : t.cfg = s.cfg
  resetLine : t.resetLine = s.resetLine
  requests : t.requests = s.requests
  consumed : ∃ k new, t.answers = s.answers.drop k ∧ t.trace = s.trace ++ new ∧
    new.map TraceEntry.reply = (s.answers.take k).map some
  ended : (t.phase = .idle ∧ ∃ r, t.responses = s.responses ++ [r]) ∨
    (t.phase.isBusy = true ∧ t.responses = s.responses ∧ t.answers = [])

/-- A run that makes one call more at its start. -/
theorem Ran.of_called {s t : State} {c : TxCall} {r : Reply} {rest : List Reply} (h : s.answers = r :: rest)
    (hr : Ran (s.called c r rest) t) : Ran s t := by
  obtain ⟨k, new, ha, ht, hm⟩ := hr.consumed
  refine ⟨hr.cfg, hr.resetLine, hr.requests, ⟨k + 1, ⟨c, some r⟩ :: new, ?_, ?_, ?_⟩, hr.ended⟩
  · simpa [h] using ha
  · simpa using ht
  · simpa [h] using hm

theorem runSteps_spec (ms : List Micro) (reg : U16) (ret : Ret) (s : State) : Ran s (runSteps ms reg ret s) := by
  refine runSteps_induct (P := fun _ _ s t => Ran s t) ret ?_ ?_ ?_ ?_ ?_ ?_ ?_ ?_ ?_ ?_ ms reg s
  · exact fun reg s => ⟨rfl, rfl, rfl, ⟨0, [], by simp⟩, .inl ⟨rfl, _, rfl⟩⟩
  · exact fun _ _ _ _ _ h => h
  · exact fun _ _ _ _ _ _ h => h
  · exact fun _ _ _ _ _ h => ⟨h.cfg, h.resetLine, h.requests, h.consumed, h.ended⟩
  · exact fun _ _ _ _ h => ⟨rfl, rfl, rfl, ⟨0, [], by simp⟩, .inr ⟨rfl, rfl, h⟩⟩
  · exact fun _ _ _ _ _ _ _ _ h _ ht => ht.of_called h
  · exact fun _ _ _ _ _ _ _ h _ => Ran.of_called h ⟨rfl, rfl, rfl, ⟨0, [], by simp⟩, .inl ⟨rfl, _, rfl⟩⟩
  · exact fun _ _ _ _ h => ⟨rfl, rfl, rfl, ⟨0, [], by simp⟩, .inr ⟨rfl, rfl, h⟩⟩
  · exact fun _ _ _ _ _ _ _ h _ ht => ht.of_called h
  · exact fun _ _ _ _ _ _ _ h _ => Ran.of_called h ⟨rfl, rfl, rfl, ⟨0, [], by simp⟩, .inl ⟨rfl, _, rfl⟩⟩

/-! ### The calls of a run -/

/-- The calls that running `ms` from `s` to `t` records: the calls of `ms` in order, from the first on, each once and with
one reply; none after a failed one; all of them where the run is over and none failed. -/
structure Called (ms : List Micro) (s t : State) (new : List TraceEntry) : Prop where
  trace : t.trace = s.trace ++ new
  answers : t.answers = s.answers.drop new.length
  replies : new.map TraceEntry.reply = (s.answers.take new.length).map some
  kinds : new.map (fun c => c.call.kind?) <+: (ms.filterMap Micro.kind?).map some
  failed : ∀ c ∈ new.dropLast, c.error? = none
  complete : t.phase = .idle → (∀ c ∈ new, c.error? = none) → new.length = (ms.filterMap Micro.kind?).length

/-- A run that records nothing, at a point where the run is over only if no call is left. -/
theorem Called.empty {ms : List Micro} {s t : State} (ht : t.trace = s.trace) (ha : t.answers = s.answers)
    (h : t.phase = .idle → ms.filterMap Micro.kind? = []) : Called ms s t [] :=
  ⟨by simp [ht], by simp [ha], by simp, by simp, by simp, fun hp _ => by simp [h hp]⟩

/-- A call that failed ends the run. -/
theorem Called.failing {m : Micro} {ms : List Micro} {s : State} {k : CallKind} {c : TxCall} {r : Reply}
    {rest : List Reply} {e : TransportError} (hm : m.kind? = some k) (hk : c.kind? = some k) (h : s.answers = r :: rest)
    (he : TraceEntry.error? ⟨c, some r⟩ = some e) :
    Called (m :: ms) s ((s.called c r rest).raiseTransport e) [⟨c, some r⟩] :=
  ⟨rfl, by simp [h, State.raiseTransport, State.respond, State.called], by simp [h], by simp [hm, hk], by simp,
    fun _ hn => absurd (hn ⟨c, some r⟩ (List.mem_singleton_self _)) (by simp [he])⟩

/-- A call that did not fail is followed by the calls of the rest. -/
theorem Called.cons {m : Micro} {ms : List Micro} {s t : State} {k : CallKind} {c : TxCall} {r : Reply}
    {rest : List Reply} {new : List TraceEntry} (hm : m.kind? = some k) (hk : c.kind? = some k) (h : s.answers = r :: rest)
    (he : TraceEntry.error? ⟨c, some r⟩ = none) (ht : Called ms (s.called c r rest) t new) :
    Called (m :: ms) s t (⟨c, some r⟩ :: new) := by
  refine ⟨by simpa using ht.trace, by simpa [h] using ht.answers, by simpa [h] using ht.replies, ?_, ?_, fun hp hn => ?_⟩
  · simpa [hm, hk] using ht.kinds
  · cases new with
    | nil => simp
    | cons d new => simpa [he] using ht.failed
  · simpa [hm] using ht.complete hp fun d hd => hn d (by simp [hd])

/-- A step that is no call leaves the calls as they are. -/
theorem Called.skip {m : Micro} {ms : List Micro} {s s' t : State} {new : List TraceEntry} (hm : m.kind? = none)
    (hs : s'.trace = s.trace) (ha : s'.answers = s.answers) (h : Called ms s' t new) : Called (m :: ms) s t new :=
  ⟨hs ▸ h.trace, ha ▸ h.answers, ha ▸ h.replies, by simpa [hm] using h.kinds, h.failed, by simpa [hm] using h.complete⟩

theorem runSteps_calls (ms : List Micro) (reg : U16) (ret : Ret) (s : State) :
    ∃ new, Called ms s (runSteps ms reg ret s) new := by
  refine runSteps_induct (P := fun ms _ s t => ∃ new, Called ms s t new) ret ?_ ?_ ?_ ?_ ?_ ?_ ?_ ?_ ?_ ?_ ms reg s
  · exact fun _ _ => ⟨[], .empty rfl rfl fun _ => rfl⟩
  · exact fun _ _ _ _ _ ⟨new, h⟩ => ⟨new, h.skip rfl rfl rfl⟩
  · exact fun _ _ _ _ _ _ ⟨new, h⟩ => ⟨new, h.skip rfl rfl rfl⟩
  · exact fun w _ _ s _ ⟨new, h⟩ => ⟨new, h.skip (s := s) (s' := s.mirror w) rfl rfl rfl⟩
  · exact fun _ _ _ _ _ => ⟨[], .empty rfl rfl fun hp => by cases hp⟩
  · intro cmd ms reg s r rest w t ha hw ⟨new, h⟩
    exact ⟨_, .cons (k := .read cmd) (c := readCall s.cfg.addr cmd) rfl rfl ha
      (r.readResult_cases.elim (fun ⟨_, _, he⟩ => he) fun ⟨_, hr, _⟩ => by simp [hw] at hr) h⟩
  · intro cmd ms reg s r rest e ha hr
    exact ⟨_, .failing (k := .read cmd) rfl rfl ha (r.readResult_cases.elim (fun ⟨_, hw, _⟩ => by simp [hr] at hw)
      fun ⟨e', hr', he⟩ => by rw [hr] at hr'; cases hr'; exact he)⟩
  · exact fun _ _ _ _ _ => ⟨[], .empty rfl rfl fun hp => by cases hp⟩
  · intro cmd ms reg s r rest t ha hw ⟨new, h⟩
    exact ⟨_, .cons (k := .write cmd) (c := writeCall s.cfg.addr cmd reg) rfl rfl ha
      (r.writeResult_cases.elim And.right fun ⟨_, hr, _⟩ => by simp [hw] at hr) h⟩
  · intro cmd ms reg s r rest e ha hr
    exact ⟨_, .failing (k := .write cmd) rfl rfl ha (r.writeResult_cases.elim (fun ⟨hw, _⟩ => by simp [hr] at hw)
      fun ⟨e', hr', he⟩ => by rw [hr] at hr'; cases hr'; exact he)⟩

/-- A run does not read the phase it starts in: it always sets it. -/
theorem runSteps_phase (p : Phase) (ms : List Micro) (reg : U16) (ret : Ret) (s : State) :
    runSteps ms reg ret { s with phase := p } = runSteps ms reg ret s := by
  induction ms generalizing reg s with
  | nil => rfl
  | cons m ms ih =>
    cases m with
    | load v => exact ih v s
    | modify f x => exact ih _ s
    | mirror w => exact ih reg (s.mirror w)
    | read cmd =>
      obtain h | ⟨r, rest, h⟩ : s.answers = [] ∨ ∃ r rest, s.answers = r :: rest := by cases s.answers <;> simp
      · rw [runSteps_read_nil (s := { s with phase := p }) h, runSteps_read_nil h]; rfl
      · rcases r.readResult_cases with ⟨w, hw, _⟩ | ⟨e, he, _⟩
        · rw [runSteps_read_ok (s := { s with phase := p }) h hw, runSteps_read_ok h hw]
          exact ih w (s.called (readCall s.cfg.addr cmd) r rest)
        · rw [runSteps_read_err (s := { s with phase := p }) h he, runSteps_read_err h he]; rfl
    | write cmd =>
      obtain h | ⟨r, rest, h⟩ : s.answers = [] ∨ ∃ r rest, s.answers = r :: rest := by cases s.answers <;> simp
      · rw [runSteps_write_nil (s := { s with phase := p }) h, runSteps_write_nil h]; rfl
      · rcases r.writeResult_cases with ⟨hw, _⟩ | ⟨e, he, _⟩
        · rw [runSteps_write_ok (s := { s with phase := p }) h hw, runSteps_write_ok h hw]
          exact ih reg (s.called (writeCall s.cfg.addr cmd reg) r rest)
        · rw [runSteps_write_err (s := { s with phase := p }) h he, runSteps_write_err h he]; rfl

/-- Ending an operation at once is a run. -/
theorem respond_spec (r : Response) (s : State) : Ran s (s.respond r) :=
  ⟨rfl, rfl, rfl, ⟨0, [], by simp⟩, .inl ⟨rfl, r, rfl⟩⟩

end Sys2Proof.Machine
end

