-- ==== Sys2Proof/Laws/Exec.lean ====
section
/-! SUPPORT. What the meanings have in common: a next state of `exec` is reached by ending the operation at once or by
running its steps. -/

namespace Sys2Proof.Machine

/-- The only two ways `exec` reaches a next state. -/
theorem exec_next_cases {i : Instr} {s t : State} (h : exec i s = .next t) :
    (∃ r, t = s.respond r) ∨ ∃ ms ret, t = s.start ms ret := by
  have start {ms ret} (h : (Host.Outcome.next (s.start ms ret) : Result) = .next t) :
      (∃ r, t = s.respond r) ∨ ∃ ms ret, t = s.start ms ret := .inr ⟨ms, ret, by injection h with h; exact h.symm⟩
  have respond {r} (h : (Host.Outcome.next (s.respond r) : Result) = .next t) :
      (∃ r, t = s.respond r) ∨ ∃ ms ret, t = s.start ms ret := .inl ⟨r, by injection h with h; exact h.symm⟩
  cases i with
  | fget fid w => simp only [exec, execFget] at h; split at h <;> exact respond h
  | fset fid val w => simp only [exec, execFset] at h; split at h <;> exact respond h
  | setgain g => simp only [exec, execSetgain] at h; split at h; exacts [respond h, start h]
  | setdiv g => simp only [exec, execSetdiv] at h; split at h; exacts [respond h, start h]
  | v2c v => simp only [exec, execV2c] at h; split at h <;> [exact absurd h (by simp); exact respond h]
  | setv v => simp only [exec, execSetv] at h; split at h <;> [exact absurd h (by simp); exact start h]
  | c2v c => exact respond h
  | _ => exact start h

/-- Only V2C and SETV are ever refused, and only while VREF is not positive (R134). -/
theorem exec_cases (i : Instr) (s : State) :
    (∃ t, exec i s = .next t) ∨
      (exec i s = .refused .nonPositiveReference ∧ s.dev.vref ≤ 0 ∧ ∃ v, i = .v2c v ∨ i = .setv v) := by
  cases i with
  | fget fid w => simp only [exec, execFget]; split <;> exact .inl ⟨_, rfl⟩
  | fset fid val w => simp only [exec, execFset]; split <;> exact .inl ⟨_, rfl⟩
  | setgain g => simp only [exec, execSetgain]; split <;> exact .inl ⟨_, rfl⟩
  | setdiv g => simp only [exec, execSetdiv]; split <;> exact .inl ⟨_, rfl⟩
  | v2c v => simp only [exec, execV2c]; split; exacts [.inr ⟨rfl, ‹_›, v, .inl rfl⟩, .inl ⟨_, rfl⟩]
  | setv v => simp only [exec, execSetv]; split; exacts [.inr ⟨rfl, ‹_›, v, .inr rfl⟩, .inl ⟨_, rfl⟩]
  | _ => exact .inl ⟨_, rfl⟩

end Sys2Proof.Machine
end

