-- ==== Sys2Proof/Laws/Fields.lean ====
section
/-! SUPPORT. The field functions, bit by bit: every law of a field follows from these. -/

namespace Sys2Proof

theorem fieldMask_bit {k : Nat} (hk : k ≤ 16) (i : Nat) : (fieldMask k).getLsbD i = decide (i < k) := by
  simp only [fieldMask, BitVec.getLsbD_ofNat, Nat.testBit_two_pow_sub_one]
  by_cases h : i < k
  · simp [h, show i < 16 by omega]
  · simp [h]

theorem getField_bit {s k : Nat} (hk : k ≤ 16) (w : U16) (i : Nat) :
    (getField s k w).getLsbD i = (w.getLsbD (s + i) && decide (i < k)) := by
  simp [getField, fieldMask_bit hk]

theorem setField_bit {s k : Nat} (hk : s + k ≤ 16) (w x : U16) (i : Nat) :
    (setField s k w x).getLsbD i = if s ≤ i ∧ i < s + k then x.getLsbD (i - s) else w.getLsbD i := by
  by_cases hi : i < 16
  · simp only [setField, BitVec.getLsbD_or, BitVec.getLsbD_and, BitVec.getLsbD_not, BitVec.getLsbD_shiftLeft,
      fieldMask_bit (show k ≤ 16 by omega), hi, decide_true, Bool.true_and]
    by_cases h1 : s ≤ i
    · by_cases h2 : i < s + k
      · simp [h1, h2, show ¬ i < s by omega, show i - s < k by omega]
      · simp [h2, show ¬ i < s by omega, show ¬ i - s < k by omega]
    · simp [h1, show i < s by omega]
  · rw [BitVec.getLsbD_of_ge _ i (by omega), BitVec.getLsbD_of_ge w i (by omega), if_neg (by omega)]

/-- Every field lies inside its register's word (R61). -/
theorem Field.fits (f : Field) : f.shift + f.width ≤ 16 := by cases f <;> decide

/-- Two fields of one register do not overlap (R61, R88 law 4). -/
theorem Field.apart {f g : Field} (h : f ≠ g) (hc : f.cmd = g.cmd) :
    f.shift + f.width ≤ g.shift ∨ g.shift + g.width ≤ f.shift := by
  cases f <;> cases g <;> first
    | exact absurd rfl h
    | exact absurd hc (by decide)
    | decide

end Sys2Proof
end

