-- ==== Sys2Proof/Laws/PerInstr.lean ====
section
/-! SUPPORT. Laws of every instruction as syntax, one lemma per constructor. -/

namespace Sys2Proof.Laws.EncodeMatches

/-- The word of an instruction matches the instruction's own row of spec/opcode_table.json: width, mask and match. -/
def Statement (i : Instr) : Prop := (encode i).matchesRow i.row = true

theorem of_req {op : Byte} {a : U32} {r : Row} (hw : r.width = 40) (hm : r.mask = 0xFF00000000)
    (hp : r.pattern = op.toNat <<< 32) : (reqWord op a).matchesRow r = true := by
  have h := reqWord_masked op a
  simp only [reqWord, PortWord.matchesRow, PortWord.width, PortWord.bits, hw, hm, hp, Bool.and_eq_true, beq_iff_eq]
  exact ⟨trivial, h⟩

theorem of_w24 {cmd : Byte} {v : U16} {r : Row} (hw : r.width = 24) (hm : r.mask = 0xFF0000)
    (hp : r.pattern = cmd.toNat <<< 16) : (w24Word cmd v).matchesRow r = true := by
  have h := frame_masked cmd v
  simp only [w24Word, PortWord.matchesRow, PortWord.width, PortWord.bits, hw, hm, hp, Bool.and_eq_true, beq_iff_eq]
  exact ⟨trivial, h⟩

theorem fget (fid : Byte) (w : U16) : Statement (.fget fid w) := of_req rfl rfl rfl
theorem fset (fid : Byte) (val : Byte) (w : U16) : Statement (.fset fid val w) := of_req rfl rfl rfl
theorem write (cmd : Byte) (value : U16) : Statement (.write cmd value) := of_req rfl rfl rfl
theorem readraw (cmd : Byte) : Statement (.readraw cmd) := of_req rfl rfl rfl
theorem ldac : Statement (.ldac) := of_req rfl rfl rfl
theorem sreset : Statement (.sreset) := of_req rfl rfl rfl
theorem v2c (v : U32) : Statement (.v2c v) := of_req rfl rfl rfl
theorem c2v (c : U16) : Statement (.c2v c) := of_req rfl rfl rfl
theorem setv (v : U32) : Statement (.setv v) := of_req rfl rfl rfl
theorem getv : Statement (.getv) := of_req rfl rfl rfl
theorem setgain (g : Byte) : Statement (.setgain g) := of_req rfl rfl rfl
theorem setdiv (g : Byte) : Statement (.setdiv g) := of_req rfl rfl rfl
theorem setvref (v : U32) : Statement (.setvref v) := of_req rfl rfl rfl
theorem dacpd (b : Bool) : Statement (.dacpd b) := of_req rfl rfl rfl
theorem refpd (b : Bool) : Statement (.refpd b) := of_req rfl rfl rfl
theorem shutdown : Statement (.shutdown) := of_req rfl rfl rfl
theorem init : Statement (.init) := of_req rfl rfl rfl
theorem w24Noop (value : U16) : Statement (.w24Noop value) := of_w24 rfl rfl rfl
theorem w24Devid (value : U16) : Statement (.w24Devid value) := of_w24 rfl rfl rfl
theorem w24Sync (value : U16) : Statement (.w24Sync value) := of_w24 rfl rfl rfl
theorem w24Config (value : U16) : Statement (.w24Config value) := of_w24 rfl rfl rfl
theorem w24Gain (value : U16) : Statement (.w24Gain value) := of_w24 rfl rfl rfl
theorem w24Trigger (value : U16) : Statement (.w24Trigger value) := of_w24 rfl rfl rfl
theorem w24Status (value : U16) : Statement (.w24Status value) := of_w24 rfl rfl rfl
theorem w24Dac (value : U16) : Statement (.w24Dac value) := of_w24 rfl rfl rfl
theorem r8Noop : Statement .r8Noop := by unfold Statement; decide
theorem r8Devid : Statement .r8Devid := by unfold Statement; decide
theorem r8Sync : Statement .r8Sync := by unfold Statement; decide
theorem r8Config : Statement .r8Config := by unfold Statement; decide
theorem r8Gain : Statement .r8Gain := by unfold Statement; decide
theorem r8Trigger : Statement .r8Trigger := by unfold Statement; decide
theorem r8Status : Statement .r8Status := by unfold Statement; decide
theorem r8Dac : Statement .r8Dac := by unfold Statement; decide
theorem w24SoftReset : Statement .w24SoftReset := by unfold Statement; decide
theorem w24Ldac : Statement .w24Ldac := by unfold Statement; decide
theorem w24ShutdownAll : Statement .w24ShutdownAll := by unfold Statement; decide

end Sys2Proof.Laws.EncodeMatches
end

