-- ==== Sys2Proof/Laws/Step.lean ====
section
/-! SUPPORT. Everything a step can do, said once. -/

namespace Sys2Proof.Machine

/-- A step that reaches a next state is a reset, an idle block with nothing presented, the acceptance of a word (ILLEGAL,
or an instruction), or the resumption of an operation in progress. -/
theorem step_cases {s t : State} (h : step s = .next t) :
    (s.resetLine = true ∧ t = s.hardReset) ∨
    (s.resetLine = false ∧ s.phase = .idle ∧ s.requests = [] ∧ t = s) ∨
    (∃ w rest, s.resetLine = false ∧ s.phase = .idle ∧ s.requests = w :: rest ∧
      (t = State.raiseIllegal { s with requests := rest } ∨ ∃ i, decode w = .ok i ∧ exec i { s with requests := rest } = .next t)) ∨
    (∃ reg ms ret, s.resetLine = false ∧ s.phase = .busy reg ms ret ∧ t = runSteps ms reg ret s) := by
  unfold step at h
  split at h
  · injection h with h; exact .inl ⟨‹_›, h.symm⟩
  · have hl : s.resetLine = false := by rename_i hl; simpa using hl
    split at h
    · injection h with h; exact .inr (.inr (.inr ⟨_, _, _, hl, ‹_›, h.symm⟩))
    · unfold State.accept? at h
      cases hr : s.requests with
      | nil => simp only [hr] at h; injection h with h; exact .inr (.inl ⟨hl, ‹_›, rfl, h.symm⟩)
      | cons w rest =>
        simp only [hr, runWord] at h
        refine .inr (.inr (.inl ⟨w, rest, hl, ‹_›, rfl, ?_⟩))
        split at h
        · exact .inr ⟨_, ‹_›, h⟩
        · injection h with h; exact .inl h.symm

/-- Placing a word makes the next step run exactly it. -/
theorem step_withPortWord (s : State) (w : PortWord) :
    step (s.withPortWord w) = runWord w { s with phase := .idle, resetLine := false } := rfl

end Sys2Proof.Machine
end

