-- ==== Sys2Proof/Machine/Oracle.lean ====
section
/-! DEFINITION. The simulator oracle of R45, informative: the simplest chip, for running examples. No rule and no step of
the block depends on it, and it is no description of the real chip (N6). -/

namespace Sys2Proof.Machine

/-- The toy chip: a table of words by command byte (absent reads 0), the number of calls answered so far, and the
failure schedule, the numbers (from 1) of the calls that answer `Err`. -/
structure ToyChip where
  table : List (Byte × U16)
  calls : Nat
  failing : List Nat
  failure : TransportError
  deriving DecidableEq, Repr

/-- The table's word for a command byte. -/
def ToyChip.lookup (c : ToyChip) (cmd : Byte) : U16 := (c.table.lookup cmd).getD 0

/-- The table with one word replaced. -/
def ToyChip.store (cmd : Byte) (v : U16) (c : ToyChip) : ToyChip :=
  { c with table := (cmd, v) :: c.table.filter fun p => p.1 != cmd }

/-- The effect of a write that succeeds (R45): TRIGGER stores nothing, and a soft reset sets GAIN and CONFIG. -/
def ToyChip.written (cmd : Byte) (v : U16) (c : ToyChip) : ToyChip :=
  if cmd = Cmd.trigger then
    if Field.softReset.get v = 0x000A#16 then (c.store Cmd.gain 0x0001#16).store Cmd.config 0x0000#16 else c
  else c.store cmd v

/-- The word a read answers (R45): TRIGGER always reads 0. -/
def ToyChip.read (c : ToyChip) (cmd : Byte) : U16 := if cmd = Cmd.trigger then 0 else c.lookup cmd

/-- The chip's answer to a call. A failing call leaves the table unchanged. -/
def ToyChip.answer (call : TxCall) (c : ToyChip) : Reply × ToyChip :=
  let c' := { c with calls := c.calls + 1 }
  if c'.calls ∈ c.failing then (.err c.failure, c')
  else
    match call with
    | .writeBytes _ [cmd, hi, lo] => (.ok [], c'.written cmd (fromBytes hi lo))
    | .writeThenRead _ [cmd] _ => (.ok [hiByte (c.read cmd), loByte (c.read cmd)], c')
    | _ => (.err c.failure, c')

/-- The transport serves the call the block waits for, if it waits for one. -/
def State.serve (c : ToyChip) (s : State) : State × ToyChip :=
  match s.phase.pendingCall? s.cfg.addr with
  | none => (s, c)
  | some call => (s.deliver (c.answer call).1, (c.answer call).2)

end Sys2Proof.Machine
end

