-- ==== Sys2Proof/Machine/Pseudo.lean ====
section
/-! DEFINITION. The pseudo-operations (R65, R105): sequences the host issues. The block sees only the expansions, so no
step uses this file. -/

namespace Sys2Proof.Machine

/-- The five pseudo-operations of R65. -/
inductive PseudoOp where
  | rddevid
  | rdstatus
  | setcode (c : Nat)
  | getcode
  | rdgain
  deriving DecidableEq, Repr

/-- The first operation of the expansion (R65). -/
def PseudoOp.first (n : Nat) : PseudoOp → Instr
  | .rddevid => .readraw Cmd.devid
  | .rdstatus => .readraw Cmd.status
  | .setcode c => .write Cmd.dac (toword n c)
  | .getcode => .readraw Cmd.dac
  | .rdgain => .readraw Cmd.gain

/-- The operations that follow once the first has returned the word `w` (R65). A TERR ends the sequence before them
(R105). -/
def PseudoOp.rest (w : U16) : PseudoOp → List Instr
  | .rddevid => [.fget Field.devid.fid w]
  | .rdstatus => [.fget Field.refAlarm.fid w]
  | .setcode _ => []
  | .getcode => []
  | .rdgain => [.fget Field.buffGain.fid w, .fget Field.refDiv.fid w]

/-- What the host gets from the sequence when the first operation returned the word `w` (R65, result column). -/
def PseudoOp.results (n : Nat) (w : U16) : PseudoOp → List Nat
  | .rddevid => [(Field.devid.get w).toNat]
  | .rdstatus => [(Field.refAlarm.get w).toNat]
  | .setcode _ => []
  | .getcode => [fromword n w]
  | .rdgain => [(Field.buffGain.get w).toNat, (Field.refDiv.get w).toNat]

end Sys2Proof.Machine
end

