-- ==== Sys2Proof/Machine/Text.lean ====
section
/-! DEFINITION. The textual form of an operation, one per line (R64). It is the spec's notation for vectors and programs;
no step uses it. Numbers are written in hexadecimal, a voltage as `raw=`. -/

namespace Sys2Proof.Machine

/-- One hexadecimal digit. -/
def hexDigit (d : Nat) : Char := if d < 10 then Char.ofNat (48 + d) else Char.ofNat (55 + d)

/-- The last `k` hexadecimal digits of a number. -/
def hexChars : Nat → Nat → List Char
  | 0, _ => []
  | k + 1, v => hexChars k (v / 16) ++ [hexDigit (v % 16)]

/-- A number of `k` hexadecimal digits. -/
def hexText (k v : Nat) : String := "0x" ++ String.ofList (hexChars k v)

/-- A bit. -/
def bitText (b : Bool) : String := if b then "1" else "0"

/-- The operands of an operation as text. A frame has the value it carries (log 3). -/
def operandTexts : Instr → List String
  | .fget fid w => [hexText 2 fid.toNat, hexText 4 w.toNat]
  | .fset fid val w => [hexText 2 fid.toNat, hexText 4 w.toNat, hexText 2 val.toNat]
  | .write cmd value => [hexText 2 cmd.toNat, hexText 4 value.toNat]
  | .readraw cmd => [hexText 2 cmd.toNat]
  | .ldac => []
  | .sreset => []
  | .v2c v => ["raw=" ++ hexText 8 v.toNat]
  | .c2v c => [hexText 4 c.toNat]
  | .setv v => ["raw=" ++ hexText 8 v.toNat]
  | .getv => []
  | .setgain g => [hexText 2 g.toNat]
  | .setdiv g => [hexText 2 g.toNat]
  | .setvref v => ["raw=" ++ hexText 8 v.toNat]
  | .dacpd b => [bitText b]
  | .refpd b => [bitText b]
  | .shutdown => []
  | .init => []
  | .w24Noop value => [hexText 4 value.toNat]
  | .w24Devid value => [hexText 4 value.toNat]
  | .w24Sync value => [hexText 4 value.toNat]
  | .w24Config value => [hexText 4 value.toNat]
  | .w24Gain value => [hexText 4 value.toNat]
  | .w24Trigger value => [hexText 4 value.toNat]
  | .w24Status value => [hexText 4 value.toNat]
  | .w24Dac value => [hexText 4 value.toNat]
  | .r8Noop => []
  | .r8Devid => []
  | .r8Sync => []
  | .r8Config => []
  | .r8Gain => []
  | .r8Trigger => []
  | .r8Status => []
  | .r8Dac => []
  | .w24SoftReset => []
  | .w24Ldac => []
  | .w24ShutdownAll => []

/-- One line: `MNEMONIC operand, operand` (R64). -/
def instrText (i : Instr) : String :=
  match operandTexts i with
  | [] => i.row.mnemonic
  | ops => i.row.mnemonic ++ " " ++ String.intercalate ", " ops

end Sys2Proof.Machine
end

