-- ==== Sys2Proof/Tests/Slice0.lean ====
section
/-! SUPPORT. Tests by hand: words written out from the spec's encodings, the check of ill-formed terms, single steps with
their results from spec/95_test_vectors.md (the row is named at each), and a witness for the hypotheses of every
obligation that has some. -/

namespace Sys2Proof.Tests

open Sys2Proof Sys2Proof.Machine

/-! ### Decoding: one word for each row, from the bits of R51 to R53 and R58 to R60 -/

theorem test_decode_fget : decode (.req 0x0131000101#40) = .ok (.fget 0x31#8 0x0101#16) := by decide
theorem test_decode_fset : decode (.req 0x025103000A#40) = .ok (.fset 0x51#8 0x03#8 0x000A#16) := by decide
theorem test_decode_write : decode (.req 0x1000081234#40) = .ok (.write 0x08#8 0x1234#16) := by decide
/-- A12: the bits format AW does not name are ignored. -/
theorem test_decode_readraw : decode (.req 0x11FF01FFFF#40) = .ok (.readraw 0x01#8) := by decide
theorem test_decode_ldac : decode (.req 0x1200000000#40) = .ok .ldac := by decide
theorem test_decode_sreset : decode (.req 0x1300000000#40) = .ok .sreset := by decide
theorem test_decode_v2c : decode (.req 0x2000028000#40) = .ok (.v2c 0x00028000#32) := by decide
/-- Table I's note: the high half of a C2V argument is ignored. -/
theorem test_decode_c2v : decode (.req 0x21ABCD8000#40) = .ok (.c2v 0x8000#16) := by decide
theorem test_decode_setv : decode (.req 0x2200014000#40) = .ok (.setv 0x00014000#32) := by decide
theorem test_decode_getv : decode (.req 0x2300000000#40) = .ok .getv := by decide
/-- K7: only `arg[7:0]` counts. -/
theorem test_decode_setgain : decode (.req 0x3000000101#40) = .ok (.setgain 0x01#8) := by decide
theorem test_decode_setdiv : decode (.req 0x3100000004#40) = .ok (.setdiv 0x04#8) := by decide
theorem test_decode_setvref : decode (.req 0x32FFFF0000#40) = .ok (.setvref 0xFFFF0000#32) := by decide
/-- K17: only `arg[0]` counts. -/
theorem test_decode_dacpd : decode (.req 0x33FFFFFFFE#40) = .ok (.dacpd false) := by decide
theorem test_decode_refpd : decode (.req 0x3400000001#40) = .ok (.refpd true) := by decide
theorem test_decode_shutdown : decode (.req 0x3500000000#40) = .ok .shutdown := by decide
theorem test_decode_init : decode (.req 0x4000000000#40) = .ok .init := by decide

theorem test_decode_w24 :
    decode (.w24 0x00BEEF#24) = .ok (.w24Noop 0xBEEF#16) ∧ decode (.w24 0x01BEEF#24) = .ok (.w24Devid 0xBEEF#16) ∧
    decode (.w24 0x02BEEF#24) = .ok (.w24Sync 0xBEEF#16) ∧ decode (.w24 0x030100#24) = .ok (.w24Config 0x0100#16) ∧
    decode (.w24 0x040001#24) = .ok (.w24Gain 0x0001#16) ∧ decode (.w24 0x05001A#24) = .ok (.w24Trigger 0x001A#16) ∧
    decode (.w24 0x070001#24) = .ok (.w24Status 0x0001#16) ∧ decode (.w24 0x081234#24) = .ok (.w24Dac 0x1234#16) := by
  decide

theorem test_decode_r8 :
    decode (.r8 0x00#8) = .ok .r8Noop ∧ decode (.r8 0x01#8) = .ok .r8Devid ∧ decode (.r8 0x02#8) = .ok .r8Sync ∧
    decode (.r8 0x03#8) = .ok .r8Config ∧ decode (.r8 0x04#8) = .ok .r8Gain ∧ decode (.r8 0x05#8) = .ok .r8Trigger ∧
    decode (.r8 0x07#8) = .ok .r8Status ∧ decode (.r8 0x08#8) = .ok .r8Dac := by
  decide

theorem test_decode_constant_frames :
    decode (.w24 0x05000A#24) = .ok .w24SoftReset ∧ decode (.w24 0x050010#24) = .ok .w24Ldac ∧
    decode (.w24 0x030101#24) = .ok .w24ShutdownAll := by
  decide

/-- R62 item 1, X13 to X15; and the command byte no row has (C6: 0x06 is unassigned). -/
theorem test_decode_rejects :
    decode (.req 0x0000000000#40) = .error (.unknownOp 0x00#8) ∧
    decode (.req 0xFF12345678#40) = .error (.unknownOp 0xFF#8) ∧
    decode (.req 0x4100000000#40) = .error (.unknownOp 0x41#8) ∧
    decode (.w24 0x060000#24) = .error (.unnamedFrame 0x06#8) ∧
    decode (.r8 0x09#8) = .error (.unnamedFrame 0x09#8) := by
  decide

/-- The numbered words the host asks about. -/
theorem test_decode_table_words :
    decodeTableWord 40 0x1000081234 = some (.write 0x08#8 0x1234#16) ∧
    decodeTableWord 24 0x081234 = some (.w24Dac 0x1234#16) ∧ decodeTableWord 8 0x08 = some .r8Dac ∧
    decodeTableWord 40 0x4100000000 = none := by
  decide

/-! ### Ill-formed terms -/

theorem test_illformed_fget : (Instr.fget 0x20#8 0x0000#16).wellFormed = false := by decide
theorem test_illformed_fset : (Instr.fset 0x32#8 0x01#8 0x0000#16).wellFormed = false := by decide
theorem test_illformed_shutdown_frame : (Instr.w24Config 0x0101#16).wellFormed = false := by decide
theorem test_illformed_sreset_frame : (Instr.w24Trigger 0x000A#16).wellFormed = false := by decide
theorem test_illformed_ldac_frame : (Instr.w24Trigger 0x0010#16).wellFormed = false := by decide

/-! ### Parameters and pure functions -/

/-- R5, R7, U13: an instance outside the legal ranges does not exist. -/
theorem test_config_ranges :
    (Config.build? 16 0x48#8).isSome = true ∧ (Config.build? 1 0x4B#8).isSome = true ∧
    Config.build? 16 0x4C#8 = none ∧ Config.build? 16 0x47#8 = none ∧ Config.build? 0 0x48#8 = none ∧
    Config.build? 17 0x48#8 = none := by
  decide

/-- Part 2.3, rational operands at reset: just below and at half a code step, and one third of a volt. -/
theorem test_v2c_rationals :
    v2c 16 DeviceState.reset (5 / 131072) = 1 ∧ v2c 16 DeviceState.reset (5 / 131072 - 1 / 2 ^ 40) = 0 ∧
    v2c 16 DeviceState.reset (1 / 3) = 4369 := by
  decide +kernel

/-- V29 and V33 in the integer form (R132): half rounds up, also to odd; the final clamp. -/
theorem test_v2c_integer_form :
    v2cInt 16 131072 .one .one 5 = 3 ∧ v2cInt 16 131072 .one .one 131071 = 65535 ∧
    c2vInt 16 163840 .two .one 4660 = 0xB6080000 := by
  decide

/-- The form under a float format (R135), with a format that rounds nothing, is the exact form. -/
theorem test_num_form_exact :
    v2cNum id 16 DeviceState.reset (1 / 3) = 4369 ∧ c2vNum id 16 DeviceState.reset 32768 = 5 / 2 := by
  decide +kernel

/-! ### Single steps -/

/-- The block idle with a Device State, a word presented, and the transport's replies to come. -/
def at16 (d : DeviceState) (w : PortWord) (answers : List Reply) : State :=
  { State.reset with dev := d, requests := [w], answers := answers }

/-- The same block with another resolution. -/
def atN (n : Nat) (h : 1 ≤ n ∧ n ≤ 16) (w : PortWord) (answers : List Reply) : State :=
  { State.resetWith ⟨n, 0x48#8, h, by decide⟩ with requests := [w], answers := answers }

/-- What is seen of a step: response, calls, Device State. -/
def seen (o : Host.Outcome State Fault Refusal) : Option (List Response × List TraceEntry × DeviceState) :=
  match o with
  | .next t => some (t.responses, t.trace, t.dev)
  | _ => none

/-- The refusal a step ends in, if it does. -/
def refusalOf (o : Host.Outcome State Fault Refusal) : Option Refusal :=
  match o with
  | .refused r => some r
  | _ => none

/-- Reset state. -/
def dev0 : DeviceState := ⟨5 / 2, .two, .one, false⟩

/-- A state far from reset: GAIN 1, DIV 2, INTREF true, VREF 3. -/
def dev1 : DeviceState := ⟨3, .one, .two, true⟩

def e7 : TransportError := .opaqueError 7

/-- E4. -/
theorem test_fget : seen (step (at16 dev0 (.req 0x011000FFFF#40) [])) = some ([okResp 7], [], dev0) := by decide +kernel
/-- X16. -/
theorem test_fget_illegal : seen (step (at16 dev0 (.req 0x0120000000#40) [])) = some ([illegalResp], [], dev0) := by
  decide +kernel
/-- E20. -/
theorem test_fset : seen (step (at16 dev0 (.req 0x023101FEFE#40) [])) = some ([okResp 0xFFFE], [], dev0) := by
  decide +kernel
/-- E34: the value is cut to the field's width. -/
theorem test_fset_cut : seen (step (at16 dev0 (.req 0x02100AFFFF#40) [])) = some ([okResp 0xAFFF], [], dev0) := by
  decide +kernel
/-- A9. -/
theorem test_write : seen (step (at16 dev1 (.req 0x100009FFFF#40) [.ok []])) =
    some ([okResp 0], [⟨.writeBytes 0x48#8 [0x09#8, 0xFF#8, 0xFF#8], some (.ok [])⟩], dev1) := by decide +kernel
/-- M3: the raw soft-reset word does none of SRESET's bookkeeping. -/
theorem test_write_trigger : seen (step (at16 dev1 (.req 0x100005000A#40) [.ok []])) =
    some ([okResp 0], [busW 0x48#8 0x05#8 0x000A#16 (.ok [])], dev1) := by decide +kernel
/-- A8. -/
theorem test_readraw : seen (step (at16 dev0 (.req 0x1100080000#40) [.ok [0x12#8, 0x34#8]])) =
    some ([okResp 0x1234], [busR 0x48#8 0x08#8 (.ok [0x12#8, 0x34#8])], dev0) := by decide +kernel
/-- A13. -/
theorem test_readraw_short : seen (step (at16 dev0 (.req 0x1100080000#40) [.ok [0x12#8]])) =
    some ([terrResp .shortRead], [busR 0x48#8 0x08#8 (.ok [0x12#8])], dev0) := by decide +kernel
/-- A10. -/
theorem test_ldac : seen (step (at16 dev0 (.req 0x1200000000#40) [.ok []])) =
    some ([okResp 0], [⟨.writeBytes 0x48#8 [0x05#8, 0x00#8, 0x10#8], some (.ok [])⟩], dev0) := by decide +kernel
/-- S8, third row: CONFIG's other bit is kept. -/
theorem test_sreset : seen (step (at16 dev0 (.req 0x1300000000#40) [.ok [], .ok [0x00#8, 0x01#8], .ok []])) =
    some ([okResp 0], [busW 0x48#8 0x05#8 0x000A#16 (.ok []), busR 0x48#8 0x03#8 (.ok [0x00#8, 0x01#8]),
      busW 0x48#8 0x03#8 0x0101#16 (.ok [])], dev0) := by decide +kernel
/-- S8, second row: one transaction when the on-chip reference is in use. -/
theorem test_sreset_internal : seen (step (at16 dev1 (.req 0x1300000000#40) [.ok []])) =
    some ([okResp 0], [busW 0x48#8 0x05#8 0x000A#16 (.ok [])], ⟨3, .two, .one, true⟩) := by decide +kernel
/-- V29: VREF 2, GAIN 1, 5/65536 V. -/
theorem test_v2c : seen (step (at16 ⟨2, .one, .one, false⟩ (.req 0x2000000005#40) [])) =
    some ([okResp 3], [], ⟨2, .one, .one, false⟩) := by decide +kernel
/-- V11: rounds to 65536, final clamp. -/
theorem test_v2c_clamp : seen (step (at16 dev0 (.req 0x200004FFFF#40) [])) = some ([okResp 65535], [], dev0) := by
  decide +kernel
/-- I7. -/
theorem test_c2v : seen (step (at16 ⟨5 / 2, .one, .two, false⟩ (.req 0x2100001234#40) [])) =
    some ([okResp 0x000000002D820000], [], ⟨5 / 2, .one, .two, false⟩) := by decide +kernel
/-- Part 2.3, last lines: C2V is specified under a negative VREF. -/
theorem test_c2v_negative : seen (step (at16 ⟨-5 / 2, .two, .one, false⟩ (.req 0x2100008000#40) [])) =
    some ([okResp 0xFFFFFFFB00000000], [], ⟨-5 / 2, .two, .one, false⟩) := by decide +kernel
/-- V43: N = 14, the code left-aligned in the word. -/
theorem test_setv : seen (step (atN 14 (by decide) (.req 0x2200010000#40) [.ok []])) =
    some ([okResp 3277], [busW 0x48#8 0x08#8 0x3334#16 (.ok [])], dev0) := by decide +kernel
/-- R134: VREF 0 is refused. -/
theorem test_setv_refused : refusalOf (step (at16 ⟨0, .two, .one, false⟩ (.req 0x2200010000#40) [.ok []])) =
    some .nonPositiveReference := by decide +kernel
/-- Part 2.4: N = 12, the low four bits are discarded. -/
theorem test_getv : seen (step (atN 12 (by decide) (.req 0x2300000000#40) [.ok [0xFF#8, 0xFF#8]])) =
    some ([okResp 0x00000009FF600000], [busR 0x48#8 0x08#8 (.ok [0xFF#8, 0xFF#8])], dev0) := by decide +kernel
/-- X11. -/
theorem test_getv_short : seen (step (at16 dev0 (.req 0x2300000000#40) [.ok [0x80#8]])) =
    some ([terrResp .shortRead], [busR 0x48#8 0x08#8 (.ok [0x80#8])], dev0) := by decide +kernel
/-- K3: reserved bits ride on the read, DIV is not refreshed from it. -/
theorem test_setgain : seen (step (at16 dev0 (.req 0x3000000001#40) [.ok [0xFF#8, 0xFF#8], .ok []])) =
    some ([okResp 0], [busR 0x48#8 0x04#8 (.ok [0xFF#8, 0xFF#8]), busW 0x48#8 0x04#8 0xFFFE#16 (.ok [])],
      ⟨5 / 2, .one, .one, false⟩) := by decide +kernel
/-- X3: GAIN is committed after the write only. -/
theorem test_setgain_error : seen (step (at16 dev0 (.req 0x3000000001#40) [.ok [0x00#8, 0x01#8], .err e7])) =
    some ([terrResp e7], [busR 0x48#8 0x04#8 (.ok [0x00#8, 0x01#8]), busW 0x48#8 0x04#8 0x0000#16 (.err e7)], dev0) := by
  decide +kernel
/-- K9. -/
theorem test_setdiv : seen (step (at16 dev0 (.req 0x3100000002#40) [.ok [0x00#8, 0x01#8], .ok []])) =
    some ([okResp 0], [busR 0x48#8 0x04#8 (.ok [0x00#8, 0x01#8]), busW 0x48#8 0x04#8 0x0101#16 (.ok [])],
      ⟨5 / 2, .two, .two, false⟩) := by decide +kernel
/-- K11. -/
theorem test_setdiv_ignored : seen (step (at16 dev0 (.req 0x3100000004#40) [])) = some ([okResp 0], [], dev0) := by
  decide +kernel
/-- K14. -/
theorem test_setvref : seen (step (at16 dev0 (.req 0x32FFFF0000#40) [])) =
    some ([okResp 0], [], ⟨-1, .two, .one, false⟩) := by decide +kernel
/-- K17. -/
theorem test_dacpd : seen (step (at16 dev0 (.req 0x33FFFFFFFE#40) [.ok [0x00#8, 0x01#8], .ok []])) =
    some ([okResp 0], [busR 0x48#8 0x03#8 (.ok [0x00#8, 0x01#8]), busW 0x48#8 0x03#8 0x0000#16 (.ok [])], dev0) := by
  decide +kernel
/-- K21. -/
theorem test_refpd : seen (step (at16 dev0 (.req 0x3400000000#40) [.ok [0xFF#8, 0xFF#8], .ok []])) =
    some ([okResp 0], [busR 0x48#8 0x03#8 (.ok [0xFF#8, 0xFF#8]), busW 0x48#8 0x03#8 0xFEFF#16 (.ok [])],
      ⟨5 / 2, .two, .one, true⟩) := by decide +kernel
/-- X4. -/
theorem test_refpd_error : seen (step (at16 dev1 (.req 0x3400000001#40) [.ok [0x00#8, 0x00#8], .err e7])) =
    some ([terrResp e7], [busR 0x48#8 0x03#8 (.ok [0x00#8, 0x00#8]), busW 0x48#8 0x03#8 0x0100#16 (.err e7)], dev1) := by
  decide +kernel
/-- K22. -/
theorem test_shutdown : seen (step (at16 dev1 (.req 0x3500000000#40) [.ok []])) =
    some ([okResp 0], [busW 0x48#8 0x03#8 0x0101#16 (.ok [])], ⟨3, .one, .two, false⟩) := by decide +kernel
/-- L2. -/
theorem test_init : seen (step (at16 dev1 (.req 0x4000000000#40)
      [.ok [0x00#8, 0x01#8], .ok [], .ok [], .ok [0x01#8, 0x01#8], .ok []])) =
    some ([okResp 0], [busR 0x48#8 0x03#8 (.ok [0x00#8, 0x01#8]), busW 0x48#8 0x03#8 0x0101#16 (.ok []),
      busW 0x48#8 0x05#8 0x000A#16 (.ok []), busR 0x48#8 0x03#8 (.ok [0x01#8, 0x01#8]),
      busW 0x48#8 0x03#8 0x0101#16 (.ok [])], dev0) := by decide +kernel
/-- X9: the defaults of step 1 stay, INTREF is the old one. -/
theorem test_init_error : seen (step (at16 dev1 (.req 0x4000000000#40) [.err e7])) =
    some ([terrResp e7], [busR 0x48#8 0x03#8 (.err e7)], ⟨5 / 2, .two, .one, true⟩) := by decide +kernel

/-- R58, log 3: a write frame alone is its three bytes on the bus. -/
theorem test_w24 : seen (step (at16 dev1 (.w24 0x040100#24) [.ok []])) =
    some ([okResp 0], [⟨.writeBytes 0x48#8 [0x04#8, 0x01#8, 0x00#8], some (.ok [])⟩], dev1) := by decide +kernel
/-- R59, log 3: a read frame alone is its byte on the bus and two bytes back. -/
theorem test_r8 : seen (step (at16 dev1 (.r8 0x01#8) [.ok [0x20#8, 0x15#8]])) =
    some ([okResp 0x2015], [⟨.writeThenRead 0x48#8 [0x01#8] 2, some (.ok [0x20#8, 0x15#8])⟩], dev1) := by decide +kernel
/-- R60, log 3: the shutdown frame alone leaves INTREF as it was. -/
theorem test_constant_frame : seen (step (at16 dev1 (.w24 0x030101#24) [.ok []])) =
    some ([okResp 0], [⟨.writeBytes 0x48#8 [0x03#8, 0x01#8, 0x01#8], some (.ok [])⟩], dev1) := by decide +kernel
/-- X14. -/
theorem test_illegal : seen (step (at16 dev1 (.req 0xFF12345678#40) [])) = some ([illegalResp], [], dev1) := by
  decide +kernel

/-! ### The input ports, the toy chip, the pseudo-operations, the text -/

/-- R206, R190: a request whose call has not returned, then reset: no response, INTREF false. -/
theorem test_reset_cuts_call :
    seen (step (State.assertReset { at16 dev1 (.r8 0x01#8) [] with phase := .busy 0 [.read 0x01#8] .reg })) =
      some ([], [⟨.writeThenRead 0x48#8 [0x01#8] 2, none⟩], dev0) := by decide +kernel

/-- R29: the status outputs are the Device State. -/
theorem test_status_outputs : (at16 dev1 (.r8 0x01#8) []).statusOutputs = dev1 := rfl

/-- R45: the toy chip's soft reset writes GAIN and CONFIG, and TRIGGER reads 0. -/
theorem test_toy_chip :
    let chip := (ToyChip.answer (.writeBytes 0x48#8 [0x05#8, 0x00#8, 0x0A#8]) ⟨[(0x03#8, 0x0101#16)], 0, [], e7⟩).2
    chip.read 0x04#8 = 0x0001#16 ∧ chip.read 0x03#8 = 0x0000#16 ∧ chip.read 0x05#8 = 0x0000#16 := by decide

/-- R45, R65: the chip serves a waiting READRAW, and the DEVID field of the answer is the device id (P4 rows 4, 5). -/
theorem test_rddevid :
    (PseudoOp.rddevid.first 16 = .readraw 0x01#8) ∧
    (((State.serve ⟨[(0x01#8, 0x2015#16)], 0, [], e7⟩
      { at16 dev0 (.r8 0x01#8) [] with phase := .busy 0 [.read 0x01#8] .reg }).1).answers = [.ok [0x20#8, 0x15#8]]) ∧
    PseudoOp.rddevid.rest 0x2015#16 = [.fget 0x10#8 0x2015#16] ∧ PseudoOp.rddevid.results 16 0x2015#16 = [2] := by
  decide

/-- R65: SETCODE and GETCODE at N = 12. -/
theorem test_codes :
    (PseudoOp.setcode 2048).first 12 = .write 0x08#8 0x8000#16 ∧ PseudoOp.getcode.results 12 0xFFF0#16 = [4095] ∧
    PseudoOp.rdgain.results 16 0x0101#16 = [1, 1] := by decide

/-- R64. -/
theorem test_text :
    instrText (.write 0x08#8 0x1234#16) = "WRITE 0x08, 0x1234" ∧ instrText .sreset = "SRESET" ∧
    instrText (.v2c 0x00028000#32) = "V2C raw=0x00028000" := by decide +kernel

/-! ### Witnesses: the hypotheses of each obligation are met -/

/-- The block with a Device State and the transport's replies to come, nothing presented. -/
def st (d : DeviceState) (answers : List Reply) : State := { State.reset with dev := d, answers := answers }

/-- The same, waiting for a call. -/
def waiting (m : Micro) : State := { st dev1 [] with phase := .busy 0x0100#16 [m] (.const 0) }

/-- A good reply. -/
def g0 : Reply := .ok [0x12#8, 0x34#8]

theorem witness_RejectsEveryUnknownOp :
    ∀ op ∈ [0x00#8, 0x03#8, 0x41#8, 0xFF#8], op ∉ [0x01#8, 0x02#8, 0x10#8, 0x11#8, 0x12#8, 0x13#8, 0x20#8, 0x21#8, 0x22#8,
      0x23#8, 0x30#8, 0x31#8, 0x32#8, 0x33#8, 0x34#8, 0x35#8, 0x40#8] := by decide

theorem witness_DecodeEncodeAgree :
    (Instr.fset 0x80#8 0xFF#8 0xFFFF#16).wellFormed = true ∧ (Instr.w24Config 0x0100#16).wellFormed = true ∧
    (Instr.w24Trigger 0xFFFF#16).wellFormed = true ∧ (Instr.v2c 0x80000000#32).wellFormed = true := by decide

theorem witness_FrameHasOneReading :
    decode (.w24 0x050011#24) = .ok (.w24Trigger 0x0011#16) ∧ decode (.w24 0x050010#24) = .ok .w24Ldac ∧
    decode (.r8 0x08#8) = .ok .r8Dac := by decide

theorem witness_StepRunsDecodedInstruction :
    let s := at16 dev0 (.req 0x2300000000#40) [g0]
    s.resetLine = false ∧ s.phase = .idle ∧ s.requests = [.req 0x2300000000#40] ∧
      decode (.req 0x2300000000#40) = .ok .getv := by decide

theorem witness_StepAnswersIllegal :
    let s := at16 dev0 (.w24 0x060000#24) []
    s.resetLine = false ∧ s.phase = .idle ∧ s.requests = [.w24 0x060000#24] ∧
      decode (.w24 0x060000#24) = .error (.unnamedFrame 0x06#8) := by decide

/-- Each clause: idle, waiting for a read, waiting for a write. -/
theorem witness_ResetEndsOperation :
    (st dev1 []).assertReset.resetLine = true ∧ (st dev1 []).assertReset.phase = .idle ∧
    (waiting (.read 0x03#8)).assertReset.resetLine = true ∧
    (waiting (.read 0x03#8)).assertReset.phase = .busy 0x0100#16 [.read 0x03#8] (.const 0) ∧
    (waiting (.write 0x03#8)).assertReset.phase = .busy 0x0100#16 [.write 0x03#8] (.const 0) := by decide

theorem witness_StalledCallHangsTheBlock :
    (∀ m ∈ [Micro.read 0x03#8, .write 0x03#8], (waiting m).resetLine = false ∧ m.isCall = true ∧
      (waiting m).answers = []) ∧
    (waiting (.read 0x03#8)).phase = .busy 0x0100#16 [.read 0x03#8] (.const 0) := by decide

theorem witness_IdleBlockChangesNothing :
    State.reset.resetLine = false ∧ State.reset.phase = .idle ∧ State.reset.requests = [] := by decide

theorem witness_FieldLaws :
    Field.buffGain ≠ .refDiv ∧ Field.buffGain.cmd = Field.refDiv.cmd ∧ Field.ldac ≠ .softReset ∧
      Field.ldac.cmd = Field.softReset.cmd := by decide

theorem witness_FgetReturnsField : (0x80#8, 0, 16) ∈ Sys2Proof.specFields ∧ (0x10#8, 12, 3) ∈ Sys2Proof.specFields := by
  decide

theorem witness_FsetReplacesField : (0x51#8, 4, 1) ∈ Sys2Proof.specFields := by decide

theorem witness_UnknownFieldIdIsIllegal :
    ∀ fid ∈ [0x00#8, 0x32#8, 0x81#8, 0xFF#8], fid ∉ Sys2Proof.specFields.map Prod.fst := by decide

theorem witness_WriteIsOneThreeByteTransaction :
    (st dev1 [.ok [], g0]).answers = .ok [] :: [g0] ∧ (st dev1 [.err e7]).answers = .err e7 :: [] := ⟨rfl, rfl⟩

/-- Each clause: two bytes, an error, one byte, no byte. -/
theorem witness_ReadrawReturnsBigEndianWord :
    (st dev1 [g0]).answers = .ok [0x12#8, 0x34#8] :: [] ∧ (st dev1 [.err e7]).answers = .err e7 :: [] ∧
    (st dev1 [.ok [0x12#8]]).answers = .ok [0x12#8] :: [] ∧ [0x12#8].length < 2 ∧
    (st dev1 [.ok []]).answers = .ok [] :: [] ∧ ([] : List Byte).length < 2 := by decide +kernel

theorem witness_LdacIsWriteOfTriggerWord :
    (st dev1 [.ok []]).answers = .ok [] :: [] ∧ (st dev1 [.err e7]).answers = .err e7 :: [] := ⟨rfl, rfl⟩

theorem witness_SresetCompletes :
    dev1.intref = true ∧ (st dev1 [.ok []]).answers = .ok [] :: [] ∧ dev0.intref = false ∧
    (st dev0 [.ok [], g0, .ok []]).answers = .ok [] :: .ok (0x12#8 :: 0x34#8 :: []) :: .ok [] :: [] := ⟨rfl, rfl, rfl, rfl⟩

/-- INTREF true with one reply to come, and INTREF false with writes answered by no bytes. -/
theorem witness_SresetReissuesExactlyWhenExternal :
    (Reply.ok []).writeError? = none ∧ (st dev1 [.ok []]).answers = .ok [] :: [] ∧ dev1.intref = true ∧
    (st dev0 [.ok [], g0, .ok []]).answers = .ok [] :: [g0, .ok []] ∧ dev0.intref = false ∧ g0.readError? = none := by
  decide

/-- Each clause: the first write fails, the read fails (an error, a short reply), the second write fails. -/
theorem witness_SresetErrorLeavesItsSteps :
    (st dev1 [.err e7]).answers = .err e7 :: [] ∧ (st dev0 []).dev.intref = false ∧
    (Reply.err e7).readError? = some e7 ∧ (st dev0 [.ok [], .err e7]).answers = .ok [] :: .err e7 :: [] ∧
    (Reply.ok [0x00#8]).readError? = some .shortRead ∧
    (st dev0 [.ok [], g0, .err e7]).answers = .ok [] :: .ok (0x12#8 :: 0x34#8 :: []) :: .err e7 :: [] := by decide +kernel

theorem witness_V2cReturnsCode : 0 < (st dev0 []).dev.vref ∧ (st ⟨0, .two, .one, false⟩ []).dev.vref ≤ 0 := by
  decide +kernel

/-- N = 1 and N = 16, the lowest and the highest code below the top one. -/
theorem witness_V2cDecisionIntervals :
    1 ≤ 1 ∧ 0 < dev0.vref ∧ (5 / 2 : Rat) = dev0.vref * dev0.gain.val / dev0.div.val / 2 ^ 1 ∧ 0 < 2 ^ 1 - 1 ∧
    (5 / 65536 : Rat) = dev0.vref * dev0.gain.val / dev0.div.val / 2 ^ 16 ∧ 65534 < 2 ^ 16 - 1 := by decide +kernel

theorem witness_V2cClampsAndIsMonotone :
    0 < dev0.vref ∧ (0 : Rat) ≤ 0 ∧ dev0.vref * dev0.gain.val / dev0.div.val ≤ (5 : Rat) ∧ (1 : Rat) ≤ 2 := by
  decide +kernel

theorem witness_CodeRoundTripIsExact : 0 < dev0.vref ∧ 0 < 2 ^ 16 ∧ 65535 < 2 ^ 16 := by decide +kernel

/-- Each clause at its ends: 0, just under full scale less half a step, that point, full scale. -/
theorem witness_QuantisationErrorBound :
    0 < dev0.vref ∧ (5 : Rat) = dev0.vref * dev0.gain.val / dev0.div.val ∧ (5 / 65536 : Rat) = 5 / 2 ^ 16 ∧
    (0 : Rat) ≤ 0 ∧ (4 : Rat) < 5 - 5 / 65536 / 2 ∧ (5 - 5 / 65536 / 2 : Rat) ≤ 5 - 5 / 65536 / 2 ∧ (5 : Rat) ≤ 5 := by
  decide +kernel

theorem witness_IntegerFormAgrees : 16 ≤ 16 ∧ dev0.vref = ((163840 : Int) : Rat) / 65536 ∧ (0 : Int) < 163840 := by
  decide +kernel

/-- The last clause: a VREF that a request carries, N = 16 with any code, N = 1 with code 1. -/
theorem witness_C2vReturnsExactVoltage :
    (∃ a : U32, (st dev0 []).dev.vref = (a.toInt : Rat) / 65536) ∧ 2 ≤ (st dev0 []).cfg.n ∧
    (0x0001#16).toNat < 2 ^ (atN 1 (by decide) (.r8 0x00#8) []).cfg.n :=
  ⟨⟨0x00028000#32, by decide +kernel⟩, by decide, by decide⟩

theorem witness_SetvWritesCode :
    32768 = v2c (st dev0 []).cfg.n (st dev0 []).dev (((0x00028000#32).toInt : Rat) / 65536) ∧ 0 < (st dev0 []).dev.vref ∧
    (st dev0 [.ok []]).answers = .ok [] :: [] ∧ (st dev0 [.err e7]).answers = .err e7 :: [] ∧
    (st ⟨-1, .two, .one, false⟩ []).dev.vref ≤ 0 := by decide +kernel

theorem witness_GetvReturnsExactVoltage :
    (st dev0 [g0]).answers = .ok (0x12#8 :: 0x34#8 :: []) :: [] ∧
    (∃ a : U32, (st dev0 [g0]).dev.vref = (a.toInt : Rat) / 65536) := ⟨rfl, 0x00028000#32, by decide +kernel⟩

theorem witness_CodeAlignment : 0 < 2 ^ Config.thisHardware.n ∧ 65535 < 2 ^ Config.thisHardware.n := by decide

/-- SETGAIN, SETDIV, DACPD and REFPD have the same hypothesis. -/
theorem witness_SetgainCompletes :
    (st dev1 [g0, .ok []]).answers = .ok (0x12#8 :: 0x34#8 :: []) :: .ok [] :: [] := rfl

theorem witness_SetdivCompletes :
    (st dev0 [g0, .ok []]).answers = .ok (0x12#8 :: 0x34#8 :: []) :: .ok [] :: [] := rfl

theorem witness_DacpdCompletes :
    (st dev1 [.ok [0x01#8, 0x00#8, 0xFF#8], .ok []]).answers = .ok (0x01#8 :: 0x00#8 :: [0xFF#8]) :: .ok [] :: [] := rfl

theorem witness_RefpdCompletes :
    (st dev1 [.ok [0x00#8, 0x00#8], g0]).answers = .ok (0x00#8 :: 0x00#8 :: []) :: .ok [0x12#8, 0x34#8] :: [] := rfl

theorem witness_InvalidSettingIsSilentlyIgnored : ∀ g ∈ [0#8, 3#8, 255#8], g ≠ 1#8 ∧ g ≠ 2#8 := by decide

theorem witness_ShutdownCompletes :
    (st dev1 [.ok []]).answers = .ok [] :: [] ∧ (st dev1 [.err e7]).answers = .err e7 :: [] := ⟨rfl, rfl⟩

theorem witness_InitCompletes :
    (st dev1 [g0, .ok [], .ok [], g0, .ok []]).answers =
      .ok (0x12#8 :: 0x34#8 :: []) :: .ok [] :: .ok [] :: .ok (0x12#8 :: 0x34#8 :: []) :: .ok [] :: [] := rfl

theorem witness_WriteFramesComplete :
    (st dev1 [.ok []]).answers = .ok [] :: [] ∧ (st dev1 [.err e7]).answers = .err e7 :: [] ∧
    (∃ v, (Instr.w24Dac 0x1234#16, 0x08#8, 0x1234#16) ∈ [(Instr.w24Noop v, 0x00#8, v), (.w24Devid v, 0x01#8, v),
      (.w24Sync v, 0x02#8, v), (.w24Config v, 0x03#8, v), (.w24Gain v, 0x04#8, v), (.w24Trigger v, 0x05#8, v),
      (.w24Status v, 0x07#8, v), (.w24Dac v, 0x08#8, v), (.w24SoftReset, 0x05#8, 0x000A#16),
      (.w24Ldac, 0x05#8, 0x0010#16), (.w24ShutdownAll, 0x03#8, 0x0101#16)]) :=
  ⟨rfl, rfl, 0x1234#16, by decide +kernel⟩

theorem witness_ReadFramesComplete :
    (st dev1 [g0]).answers = .ok (0x12#8 :: 0x34#8 :: []) :: [] ∧ (Reply.err e7).readError? = some e7 ∧
    (Reply.ok []).readError? = some .shortRead ∧ (st dev1 [.ok []]).answers = .ok [] :: [] ∧
    (Instr.readraw 0x09#8, 0x09#8) ∈ [(Instr.r8Noop, 0x00#8), (.r8Devid, 0x01#8), (.r8Sync, 0x02#8), (.r8Config, 0x03#8),
      (.r8Gain, 0x04#8), (.r8Trigger, 0x05#8), (.r8Status, 0x07#8), (.r8Dac, 0x08#8), (.readraw 0x09#8, 0x09#8)] := by
  decide +kernel

theorem witness_ReadModifyWriteErrorLeavesState :
    (Instr.refpd true, Field.refPwdwn, 1#16) ∈ [(Instr.setgain 1#8, Field.buffGain, 0#16), (.setgain 2#8, .buffGain, 1#16),
      (.setdiv 1#8, .refDiv, 0#16), (.setdiv 2#8, .refDiv, 1#16), (.dacpd false, .dacPwdwn, 0#16),
      (.dacpd true, .dacPwdwn, 1#16), (.refpd false, .refPwdwn, 0#16), (.refpd true, .refPwdwn, 1#16)] ∧
    (Reply.ok [0x12#8]).readError? = some .shortRead ∧ (st dev1 [.ok [0x12#8]]).answers = .ok [0x12#8] :: [] ∧
    (st dev1 [g0, .err e7]).answers = .ok (0x12#8 :: 0x34#8 :: []) :: .err e7 :: [] := by decide +kernel

/-- Each of the five calls fails, the writes before it answered by no bytes. -/
theorem witness_InitErrorLeavesItsSteps :
    (Reply.err e7).readError? = some e7 ∧ (Reply.ok [0x12#8]).readError? = some .shortRead ∧
    (st dev1 [.err e7]).answers = .err e7 :: [] ∧ (st dev1 [g0, .err e7]).answers = .ok (0x12#8 :: 0x34#8 :: []) :: .err e7 :: [] ∧
    (st dev1 [g0, .ok [], .err e7]).answers = .ok (0x12#8 :: 0x34#8 :: []) :: .ok [] :: .err e7 :: [] ∧
    (st dev1 [g0, .ok [], .ok [], .ok [0x12#8]]).answers =
      .ok (0x12#8 :: 0x34#8 :: []) :: .ok [] :: .ok [] :: .ok [0x12#8] :: [] ∧
    (st dev1 [g0, .ok [], .ok [], g0, .err e7]).answers =
      .ok (0x12#8 :: 0x34#8 :: []) :: .ok [] :: .ok [] :: .ok (0x12#8 :: 0x34#8 :: []) :: .err e7 :: [] :=
  ⟨rfl, rfl, rfl, rfl, rfl, rfl, rfl⟩

theorem witness_GetvErrorLeavesState :
    (Reply.err e7).readError? = some e7 ∧ (st dev1 [.err e7]).answers = .err e7 :: [] := ⟨rfl, rfl⟩

/-- Both kinds of ending: the second call fails; nothing fails. -/
theorem witness_FirstFailingCallEndsOperation :
    (∃ t, exec (.dacpd true) (st dev1 [g0, .err e7]) = .next t ∧
      t.trace = (st dev1 [g0, .err e7]).trace ++ [busR 0x48#8 0x03#8 g0, busW 0x48#8 0x03#8 0x1235#16 (.err e7)]) ∧
    (busW 0x48#8 0x03#8 0x1235#16 (.err e7)).error? = some e7 ∧
    (∃ t, exec .getv (st dev1 [.err e7]) = .next t ∧ t.trace = (st dev1 [.err e7]).trace ++ [busR 0x48#8 0x08#8 (.err e7)] ∧
      t.responses = (st dev1 [.err e7]).responses ++ [terrResp e7]) :=
  ⟨⟨_, rfl, rfl⟩, rfl, _, rfl, rfl, rfl⟩

/-- Every register is changed by some instruction. -/
theorem witness_OnlyNamedWritersChangeDeviceState :
    ∃ t, exec .init (st dev1 [g0, g0, g0, g0, g0]) = .next t ∧ t.dev.gain ≠ (st dev1 []).dev.gain ∧
      t.dev.div ≠ (st dev1 []).dev.div ∧ t.dev.intref ≠ (st dev1 []).dev.intref ∧ t.dev.vref ≠ (st dev1 []).dev.vref :=
  ⟨_, rfl, by decide +kernel⟩

theorem witness_ExecFrame : ∃ t, exec (.write 0x08#8 0x1234#16) (st dev1 [.ok []]) = .next t := ⟨_, rfl⟩

theorem witness_OperationsWithoutCallsCannotFail :
    (∃ t, exec (.c2v 0x8000#16) (st dev1 []) = .next t) ∧ (∃ t, exec (.fget 0x20#8 0x0000#16) (st dev1 []) = .next t) ∧
    (∃ t, exec (.setgain 3#8) (st dev1 []) = .next t) ∧ 3#8 ≠ 1#8 ∧ 3#8 ≠ 2#8 :=
  ⟨⟨_, rfl⟩, ⟨_, rfl⟩, ⟨_, rfl⟩, by decide, by decide⟩

/-- INIT with its writes answered by no bytes and a failing reply left over; V2C at a positive VREF. -/
theorem witness_TransactionCounts :
    0 < (st dev0 []).dev.vref ∧ callCount false (.v2c 0#32) ≤ (st dev0 []).answers.length ∧
    (∀ c ∈ (callKinds true .init).zip (st dev1 [g0, .ok [], .ok [], g0, .ok [], .err e7]).answers,
      c.1.error? c.2 = none) ∧
    callCount true .init ≤ (st dev1 [g0, .ok [], .ok [], g0, .ok [], .err e7]).answers.length := by decide +kernel

/-- A run that ends at a failed call, one that waits, one that ends with every call made. -/
theorem witness_RepliesAreTakenInOrder :
    (∃ t, exec .init (st dev0 [g0, .ok [], .err e7, g0]) = .next t ∧ t.phase = .idle ∧ t.trace.length = 3) ∧
    (∃ t, exec .init (st dev0 [g0, .ok []]) = .next t ∧ t.phase ≠ .idle) ∧
    (∃ t, exec (.dacpd true) (st dev0 [g0, .ok []]) = .next t ∧ t.phase = .idle ∧ ∀ c ∈ t.trace, c.error? = none) :=
  ⟨⟨_, rfl, rfl, rfl⟩, ⟨_, rfl, by decide +kernel⟩, _, rfl, rfl, by decide +kernel⟩

/-- With and without a call. -/
theorem witness_WithoutReplyOperationWaits :
    (st dev0 []).answers = [] ∧ (∃ t, exec .sreset (st dev0 []) = .next t ∧ t.phase ≠ .idle) ∧
    (∃ t, exec (.setvref 0#32) (st dev0 []) = .next t ∧ t.phase = .idle) :=
  ⟨rfl, ⟨_, rfl, by decide⟩, _, rfl, rfl⟩

theorem witness_EveryRequestIsAnsweredOnce :
    (at16 dev0 (.r8 0x08#8) []).resetLine = false ∧ ∃ t, step (at16 dev0 (.r8 0x08#8) []) = .next t := ⟨rfl, _, rfl⟩

/-- Both endings: the call returns, the call has not returned. -/
theorem witness_BusyBlockAcceptsNothing :
    (waiting (.read 0x03#8)).resetLine = false ∧
    (waiting (.read 0x03#8)).phase = .busy 0x0100#16 [.read 0x03#8] (.const 0) ∧
    (∃ t, step ((waiting (.read 0x03#8)).deliver g0) = .next t ∧ t.phase = .idle) ∧
    (∃ t, step (waiting (.read 0x03#8)) = .next t ∧ t.phase ≠ .idle) :=
  ⟨rfl, rfl, ⟨_, rfl, rfl⟩, _, rfl, by decide⟩

/-- The two clauses: the early replies are enough; they are not. -/
theorem witness_LateRepliesGiveTheSameResult :
    (st dev0 []).resetLine = false ∧
    (∃ t u, exec .getv { st dev0 [] with answers := [g0] ++ [g0] } = .next t ∧
      exec .getv { st dev0 [] with answers := [g0] } = .next u ∧ u.phase = .idle) ∧
    (∃ t u, exec (.dacpd true) { st dev0 [] with answers := [g0] ++ [.ok []] } = .next t ∧
      exec (.dacpd true) { st dev0 [] with answers := [g0] } = .next u ∧ u.phase ≠ .idle) :=
  ⟨rfl, ⟨_, _, rfl, rfl, rfl⟩, _, _, rfl, rfl, by decide +kernel⟩

theorem witness_StepKeepsParameters : ∃ t, step (at16 dev1 (.req 0x1300000000#40) [.ok []]) = .next t := ⟨_, rfl⟩

/-- A state far from reset that meets the invariant, waiting for a call, and its step. -/
theorem witness_StepKeepsInvariant :
    State.Inv { waiting (.write 0x03#8) with trace := [busR 0x48#8 0x03#8 g0], responses := [terrResp e7] } ∧
    ∃ t, step { waiting (.write 0x03#8) with trace := [busR 0x48#8 0x03#8 g0], responses := [terrResp e7] } = .next t :=
  ⟨⟨⟨0x00030000#32, by decide +kernel⟩, by decide, by decide, by decide⟩, _, rfl⟩

end Sys2Proof.Tests
end

section
/-! SUPPORT. The scope family: the frame of `exec` and the invariant of `step`. A next state of `exec` is the end of a run
(`Ran`), which gives the frame. The invariant is kept by each operation on the state on its own, hence by a run that writes
no VREF, and an instruction's one VREF write comes before its run. -/

namespace Sys2Proof.Machine

/-! ### The frame -/

/-- Whatever an instruction does is a run: it ends at once or runs its steps. -/
theorem exec_ran {i : Instr} {s t : State} (h : exec i s = .next t) : Ran s t := by
  obtain ⟨r, rfl⟩ | ⟨ms, ret, rfl⟩ := exec_next_cases h
  · exact respond_spec r s
  · exact runSteps_spec ms 0 ret s

theorem Ran.trace_grows {s t : State} (h : Ran s t) : s.trace <+: t.trace := by
  obtain ⟨_, new, _, ht, _⟩ := h.consumed
  exact ⟨new, ht.symm⟩

theorem Ran.responses_grow {s t : State} (h : Ran s t) : s.responses <+: t.responses := by
  obtain ⟨_, r, hr⟩ | ⟨_, hr, _⟩ := h.ended
  · exact ⟨[r], hr.symm⟩
  · exact ⟨[], by simp [hr]⟩

/-! ### Calls, responses and VREF values -/

@[simp] theorem readCall_wellFormed (addr cmd : Byte) : (readCall addr cmd).wellFormed addr = true := by
  simp [readCall, TxCall.wellFormed]

@[simp] theorem writeCall_wellFormed (addr cmd : Byte) (v : U16) : (writeCall addr cmd v).wellFormed addr = true := by
  simp [writeCall, TxCall.wellFormed]

/-- The call that reset cuts short has one of the two shapes (R36). -/
theorem Phase.pendingCall?_wellFormed {p : Phase} {addr : Byte} {c : TxCall} (h : p.pendingCall? addr = some c) :
    c.wellFormed addr = true := by
  unfold Phase.pendingCall? at h
  split at h
  · cases h; exact readCall_wellFormed ..
  · cases h; exact writeCall_wellFormed ..
  · cases h

/-- The default reference is the operand word of 2.5 V (R11, R54). -/
theorem vrefDefault_encodable : VrefEncodable Config.vrefDefault := ⟨0x00028000#32, by decide +kernel⟩

/-- Steps none of which writes VREF. -/
def keepsVref (ms : List Micro) : Bool := ms.all fun m => !m.setsVref

@[simp] theorem keepsVref_cons (m : Micro) (ms : List Micro) :
    keepsVref (m :: ms) = (!m.setsVref && keepsVref ms) := rfl

/-- A Device State write that is no write of VREF leaves VREF as it was. -/
theorem DeviceState.apply_vref_of_not_setsVref {w : DevWrite} (h : (Micro.mirror w).setsVref = false)
    (d : DeviceState) : (d.apply w).vref = d.vref := by
  cases w with
  | vref v => cases h
  | gain g => rfl
  | div k => rfl
  | intref b => rfl

/-! ### What keeps the invariant -/

section
variable {s : State}

theorem State.Inv.respond (hs : s.Inv) {r : Response} (hr : r.wellFormed = true) : (s.respond r).Inv where
  vref := hs.vref
  phase := rfl
  traffic := hs.traffic
  responses := List.forall_mem_append.2 ⟨hs.responses, List.forall_mem_singleton.2 hr⟩

theorem State.Inv.mirror (hs : s.Inv) {w : DevWrite} (hv : VrefEncodable (s.dev.apply w).vref) : (s.mirror w).Inv where
  vref := hv
  phase := hs.phase
  traffic := hs.traffic
  responses := hs.responses

theorem State.Inv.called (hs : s.Inv) {c : TxCall} (hc : c.wellFormed s.cfg.addr = true) (r : Reply)
    (rest : List Reply) : (s.called c r rest).Inv where
  vref := hs.vref
  phase := hs.phase
  traffic := List.forall_mem_append.2 ⟨hs.traffic, List.forall_mem_singleton.2 hc⟩
  responses := hs.responses

theorem State.Inv.wait (hs : s.Inv) {m : Micro} {ms : List Micro} (hc : m.isCall = true)
    (hm : keepsVref (m :: ms) = true) (reg : U16) (ret : Ret) : (s.wait reg (m :: ms) ret).Inv where
  vref := hs.vref
  phase := Bool.and_eq_true_iff.2 ⟨hc, hm⟩
  traffic := hs.traffic
  responses := hs.responses

theorem State.Inv.accepted (hs : s.Inv) (rest : List PortWord) : State.Inv { s with requests := rest } where
  vref := hs.vref
  phase := hs.phase
  traffic := hs.traffic
  responses := hs.responses

theorem State.Inv.hardReset (hs : s.Inv) : s.hardReset.Inv where
  vref := vrefDefault_encodable
  phase := rfl
  traffic := by
    refine List.forall_mem_append.2 ⟨hs.traffic, fun e he => ?_⟩
    obtain ⟨c, hc, rfl⟩ := Option.map_eq_some_iff.1 (Option.mem_toList.1 he)
    exact Phase.pendingCall?_wellFormed hc
  responses := hs.responses

/-- What an operation in progress still has to run writes no VREF (R27). -/
theorem State.Inv.busy_keepsVref (hs : s.Inv) {reg : U16} {ms : List Micro} {ret : Ret}
    (hp : s.phase = .busy reg ms ret) : keepsVref ms = true := by
  have hw := hs.phase
  rw [hp] at hw
  exact (Bool.and_eq_true_iff.1 hw).2

end

/-- Running steps that write no VREF keeps the invariant. -/
theorem State.Inv.of_runSteps {s : State} (hs : s.Inv) {ms : List Micro} (hm : keepsVref ms = true) (reg : U16)
    (ret : Ret) : (runSteps ms reg ret s).Inv := by
  refine runSteps_induct (P := fun ms _ s t => keepsVref ms = true → s.Inv → t.Inv) ret
    ?nil ?load ?modify ?mirror ?readWait ?readOk ?readErr ?writeWait ?writeOk ?writeErr ms reg s hm hs
  case nil => exact fun _ _ _ hs => hs.respond rfl
  case load => exact fun _ _ _ _ _ ih => ih
  case modify => exact fun _ _ _ _ _ _ ih => ih
  case mirror =>
    intro w ms reg s t ih hm hs
    obtain ⟨hw, hms⟩ : (Micro.mirror w).setsVref = false ∧ keepsVref ms = true := by simpa using hm
    exact ih hms (hs.mirror (DeviceState.apply_vref_of_not_setsVref hw s.dev ▸ hs.vref))
  case readWait => exact fun _ _ reg _ _ hm hs => hs.wait rfl hm reg ret
  case readOk => exact fun _ _ _ _ r rest _ _ _ _ ih hm hs => ih hm (hs.called (readCall_wellFormed ..) r rest)
  case readErr => exact fun _ _ _ _ r rest _ _ _ _ hs => (hs.called (readCall_wellFormed ..) r rest).respond rfl
  case writeWait => exact fun _ _ reg _ _ hm hs => hs.wait rfl hm reg ret
  case writeOk => exact fun _ _ _ _ r rest _ _ _ ih hm hs => ih hm (hs.called (writeCall_wellFormed ..) r rest)
  case writeErr => exact fun _ _ _ _ r rest _ _ _ _ hs => (hs.called (writeCall_wellFormed ..) r rest).respond rfl

theorem sresetSteps_keepsVref (b : Bool) : keepsVref (sresetSteps b) = true := by cases b <;> rfl

/-- Every instruction keeps the invariant: only SETVREF and INIT write VREF, before the first call, and what they write a
request can carry. -/
theorem State.Inv.of_exec {i : Instr} {s t : State} (hs : s.Inv) (h : exec i s = .next t) : t.Inv := by
  have respond {r : Response} (hr : r.wellFormed = true) (h : (Host.Outcome.next (s.respond r) : Result) = .next t) :
      t.Inv := by cases h; exact hs.respond hr
  have start {ms ret} (hm : keepsVref ms = true) (h : (Host.Outcome.next (s.start ms ret) : Result) = .next t) :
      t.Inv := by cases h; exact hs.of_runSteps hm 0 ret
  have startVref {v ms ret} (hv : VrefEncodable v) (hm : keepsVref ms = true)
      (h : (Host.Outcome.next (s.start (.mirror (.vref v) :: ms) ret) : Result) = .next t) : t.Inv := by
    cases h; exact State.Inv.of_runSteps (hs.mirror (w := .vref v) hv) hm 0 ret
  cases i with
  | fget fid w => simp only [exec, execFget] at h; split at h <;> exact respond rfl h
  | fset fid val w => simp only [exec, execFset] at h; split at h <;> exact respond rfl h
  | setgain g => simp only [exec, execSetgain] at h; split at h; exacts [respond rfl h, start rfl h]
  | setdiv g => simp only [exec, execSetdiv] at h; split at h; exacts [respond rfl h, start rfl h]
  | v2c v => simp only [exec, execV2c] at h; split at h <;> [cases h; exact respond rfl h]
  | setv v => simp only [exec, execSetv] at h; split at h <;> [cases h; exact start rfl h]
  | c2v c => exact respond rfl h
  | sreset => exact start (sresetSteps_keepsVref _) h
  | setvref v => exact startVref ⟨v, rfl⟩ rfl h
  | init => exact startVref vrefDefault_encodable rfl h
  | _ => exact start rfl h

/-! ### The statements -/

/-- Settles O56: each of the four things a step can be keeps the invariant. -/
theorem stepKeepsInvariant : Obligations.StepKeepsInvariant := by
  intro s t hs h
  obtain ⟨_, rfl⟩ | ⟨_, _, _, rfl⟩ | ⟨_, rest, _, _, _, rfl | ⟨_, _, he⟩⟩ | ⟨reg, _, ret, _, hp, rfl⟩ := step_cases h
  · exact hs.hardReset
  · exact hs
  · exact (hs.accepted rest).respond rfl
  · exact (hs.accepted rest).of_exec he
  · exact hs.of_runSteps (hs.busy_keepsVref hp) reg ret

/-- Settles O47: the frame of a run is the frame of every instruction. -/
theorem execFrame : Obligations.ExecFrame := by
  intro i s t h
  have hr := exec_ran h
  exact ⟨hr.cfg, hr.requests, hr.resetLine, hr.trace_grows, hr.responses_grow⟩

/-- Settles O55: neither a reset, nor an acceptance, nor a run writes the parameters. -/
theorem stepKeepsParameters : Obligations.StepKeepsParameters := by
  intro s t h
  obtain ⟨_, rfl⟩ | ⟨_, _, _, rfl⟩ | ⟨_, _, _, _, _, rfl | ⟨_, _, he⟩⟩ | ⟨reg, ms, ret, _, _, rfl⟩ := step_cases h
  · exact s.hardReset_cfg
  · rfl
  · rfl
  · exact (exec_ran he).cfg
  · exact (runSteps_spec ms reg ret s).cfg

end Sys2Proof.Machine
end

section
/-! SUPPORT. The state family: what a step of the idle block does, the state after reset, and who writes the Device State.
A run applies to the Device State the first few, or all, of the `ST.X <- v` steps it is given (`runSteps_dev`), so a
register an instruction changes is the target of one of that instruction's own writes (`devWrites`). -/

namespace Sys2Proof.Machine

/-! ### A step of the idle block -/

theorem step_of_requests_nil {s : State} (hl : s.resetLine = false) (hp : s.phase = .idle) (hr : s.requests = []) :
    step s = .next s := by
  simp [step, State.accept?, hl, hp, hr]

theorem step_of_requests_cons {s : State} {w : PortWord} {rest : List PortWord} (hl : s.resetLine = false)
    (hp : s.phase = .idle) (hr : s.requests = w :: rest) : step s = runWord w { s with requests := rest } := by
  simp [step, State.accept?, hl, hp, hr]

theorem runWord_of_decode_ok {w : PortWord} {i : Instr} (h : decode w = .ok i) (s : State) : runWord w s = exec i s := by
  simp [runWord, h]

/-! ### The state after reset -/

theorem vrefDefault_eq : Config.vrefDefault = 5 / 2 := by
  simp [Config.vrefDefault, Rat.mkRat_eq_div]

theorem DeviceState.reset_eq : DeviceState.reset = ⟨5 / 2, .two, .one, false⟩ := by
  rw [DeviceState.reset, vrefDefault_eq]; rfl

/-- The reset state of a block with any parameters meets the invariant: nothing is recorded, and the default VREF is one that a
request can carry. -/
theorem State.resetWith_inv (cfg : Config) : (State.resetWith cfg).Inv where
  vref := vrefDefault_encodable
  phase := rfl
  traffic := List.forall_mem_nil _
  responses := List.forall_mem_nil _

/-! ### The Device State writes of a run -/

/-- The Device State after a list of writes, the first one first. -/
def DeviceState.applyAll (d : DeviceState) (ws : List DevWrite) : DeviceState := ws.foldl (fun d w => d.apply w) d

@[simp] theorem DeviceState.applyAll_nil (d : DeviceState) : d.applyAll [] = d := rfl

@[simp] theorem DeviceState.applyAll_cons (d : DeviceState) (w : DevWrite) (ws : List DevWrite) :
    d.applyAll (w :: ws) = (d.apply w).applyAll ws := rfl

/-- A view of the Device State that a list of writes changes is changed by one of them, from the value it had. -/
theorem DeviceState.exists_write_of_changed {α : Type} (view : DeviceState → α) {d : DeviceState} {ws : List DevWrite}
    (h : view (d.applyAll ws) ≠ view d) : ∃ w ∈ ws, ∃ d', view d' = view d ∧ view (d'.apply w) ≠ view d := by
  induction ws generalizing d with
  | nil => exact absurd rfl h
  | cons w ws ih =>
    by_cases hw : view (d.apply w) = view d
    · obtain ⟨w', hmem, hd⟩ := ih (d := d.apply w) (hw ▸ h)
      exact ⟨w', List.mem_cons_of_mem _ hmem, hw ▸ hd⟩
    · exact ⟨w, List.mem_cons_self, d, rfl, hw⟩

/-- The Device State write a micro-step makes, if it is one. -/
def Micro.devWrite? : Micro → Option DevWrite
  | .mirror w => some w
  | _ => none

/-- A run makes the Device State writes of its steps in order, up to where it ends or waits, and no other. -/
theorem runSteps_dev (ms : List Micro) (reg : U16) (ret : Ret) (s : State) :
    ∃ ws, ws <+: ms.filterMap Micro.devWrite? ∧ (runSteps ms reg ret s).dev = s.dev.applyAll ws := by
  refine runSteps_induct
    (P := fun ms _ s t => ∃ ws, ws <+: ms.filterMap Micro.devWrite? ∧ t.dev = s.dev.applyAll ws) ret
    ?nil ?load ?modify ?mirror ?readWait ?readOk ?readErr ?writeWait ?writeOk ?writeErr ms reg s
  case nil => exact fun _ _ => ⟨[], List.nil_prefix, rfl⟩
  case load => exact fun _ _ _ _ _ ih => ih
  case modify => exact fun _ _ _ _ _ _ ih => ih
  case mirror => exact fun w _ _ _ _ ⟨ws, hws, hd⟩ => ⟨w :: ws, (List.prefix_cons_inj w).2 hws, hd⟩
  case readWait => exact fun _ _ _ _ _ => ⟨[], List.nil_prefix, rfl⟩
  case readOk => exact fun _ _ _ _ _ _ _ _ _ _ ih => ih
  case readErr => exact fun _ _ _ _ _ _ _ _ _ => ⟨[], List.nil_prefix, rfl⟩
  case writeWait => exact fun _ _ _ _ _ => ⟨[], List.nil_prefix, rfl⟩
  case writeOk => exact fun _ _ _ _ _ _ _ _ _ ih => ih
  case writeErr => exact fun _ _ _ _ _ _ _ _ _ => ⟨[], List.nil_prefix, rfl⟩

/-! ### The Device State writes of an instruction -/

/-- The Device State writes of each instruction when no call fails, in order, INTREF being what it holds when the
instruction starts (R103, R140 to R142, R144, R145, R160). -/
def devWrites (intref : Bool) : Instr → List DevWrite
  | .setgain g => (Factor.ofByte? g).toList.map .gain
  | .setdiv g => (Factor.ofByte? g).toList.map .div
  | .setvref v => [.vref (volt v)]
  | .refpd b => [.intref (intrefAfter b)]
  | .shutdown => [.intref false]
  | .sreset => [.gain .two, .div .one] ++ if intref then [] else [.intref false]
  | .init => [.vref Config.vrefDefault, .gain .two, .div .one, .intref false, .gain .two, .div .one, .intref false]
  | _ => []

@[simp] theorem devWrites_setgain (b : Bool) (g : Byte) :
    devWrites b (.setgain g) = (Factor.ofByte? g).toList.map .gain := rfl

@[simp] theorem devWrites_setdiv (b : Bool) (g : Byte) :
    devWrites b (.setdiv g) = (Factor.ofByte? g).toList.map .div := rfl

@[simp] theorem devWrites_sreset (b : Bool) :
    devWrites b .sreset = [.gain .two, .div .one] ++ if b then [] else [.intref false] := rfl

theorem sresetSteps_devWrites (intref : Bool) :
    (sresetSteps intref).filterMap Micro.devWrite? = devWrites intref .sreset := by
  cases intref <;> rfl

/-- An instruction makes its Device State writes in order, up to where it ends or waits, and no other. -/
theorem exec_dev {i : Instr} {s t : State} (h : exec i s = .next t) :
    ∃ ws, ws <+: devWrites s.dev.intref i ∧ t.dev = s.dev.applyAll ws := by
  have respond {r : Response} (h : (Host.Outcome.next (s.respond r) : Result) = .next t) :
      ∃ ws, ws <+: devWrites s.dev.intref i ∧ t.dev = s.dev.applyAll ws := by
    cases h; exact ⟨[], List.nil_prefix, rfl⟩
  have start {ms ret} (hm : ms.filterMap Micro.devWrite? = devWrites s.dev.intref i)
      (h : (Host.Outcome.next (s.start ms ret) : Result) = .next t) :
      ∃ ws, ws <+: devWrites s.dev.intref i ∧ t.dev = s.dev.applyAll ws := by
    cases h; exact hm ▸ runSteps_dev ms 0 ret s
  cases i with
  | fget fid w => simp only [exec, execFget] at h; split at h <;> exact respond h
  | fset fid val w => simp only [exec, execFset] at h; split at h <;> exact respond h
  | setgain g =>
    simp only [exec, execSetgain] at h
    split at h
    · exact respond h
    · rename_i k hk
      exact start (by rw [devWrites_setgain, hk]; rfl) h
  | setdiv g =>
    simp only [exec, execSetdiv] at h
    split at h
    · exact respond h
    · rename_i k hk
      exact start (by rw [devWrites_setdiv, hk]; rfl) h
  | v2c v => simp only [exec, execV2c] at h; split at h <;> [cases h; exact respond h]
  | setv v => simp only [exec, execSetv] at h; split at h <;> [cases h; exact start rfl h]
  | c2v c => exact respond h
  | sreset => exact start (sresetSteps_devWrites _) h
  | _ => exact start rfl h

/-- A view of the Device State that an instruction changes is changed by one of its writes, from the value it had. -/
theorem exists_devWrite_of_changed {α : Type} (view : DeviceState → α) {i : Instr} {s t : State}
    (h : exec i s = .next t) (hc : view t.dev ≠ view s.dev) :
    ∃ w ∈ devWrites s.dev.intref i, ∃ d, view d = view s.dev ∧ view (d.apply w) ≠ view s.dev := by
  obtain ⟨ws, hws, hd⟩ := exec_dev h
  obtain ⟨w, hw, hchange⟩ := DeviceState.exists_write_of_changed view (hd ▸ hc)
  exact ⟨w, hws.mem hw, hchange⟩

/-- The writers of the register that `w` writes (R10's table). SRESET may write INTREF too, but only with the value it
has (R103). -/
def NamedWriter (intref : Bool) (i : Instr) : DevWrite → Prop
  | .vref _ => (∃ a, i = .setvref a) ∨ i = .init
  | .gain _ => (∃ g, i = .setgain g) ∨ i = .sreset ∨ i = .init
  | .div _ => (∃ g, i = .setdiv g) ∨ i = .sreset ∨ i = .init
  | .intref b => ((∃ b, i = .refpd b) ∨ i = .shutdown ∨ i = .init) ∨ b = intref

theorem namedWriter_of_mem_devWrites {intref : Bool} {i : Instr} {w : DevWrite} (h : w ∈ devWrites intref i) :
    NamedWriter intref i w := by
  cases i with
  | setgain g => obtain ⟨_, _, rfl⟩ := List.mem_map.1 h; exact .inl ⟨g, rfl⟩
  | setdiv g => obtain ⟨_, _, rfl⟩ := List.mem_map.1 h; exact .inl ⟨g, rfl⟩
  | setvref v => cases List.mem_singleton.1 h; exact .inl ⟨v, rfl⟩
  | refpd b => cases List.mem_singleton.1 h; exact .inl (.inl ⟨b, rfl⟩)
  | shutdown => cases List.mem_singleton.1 h; exact .inl (.inr (.inl rfl))
  | sreset => cases w <;> cases intref <;> simp_all [NamedWriter]
  | init => cases w <;> simp [NamedWriter]
  | _ => cases h

/-! ### The statements -/

/-- Settles O6: accepting the word leaves the rest presented, and the word runs as what it decodes to. -/
theorem stepRunsDecodedInstruction : Obligations.StepRunsDecodedInstruction := by
  intro s w rest i hl hp hr hd
  rw [step_of_requests_cons hl hp hr, runWord_of_decode_ok hd]

/-- Settles O10: there is no word to accept. -/
theorem idleBlockChangesNothing : Obligations.IdleBlockChangesNothing :=
  fun _ hl hp hr => step_of_requests_nil hl hp hr

/-- Settles O57: the parameters N = 16, ADDR = 0x48 of the general fact. -/
theorem resetMeetsInvariant : Obligations.ResetMeetsInvariant := State.resetWith_inv Config.thisHardware

/-- Settles O58: VREF's default as a quotient; every other field is its constructor argument. -/
theorem resetState : Obligations.ResetState :=
  ⟨DeviceState.reset_eq, rfl, rfl, rfl, rfl, rfl, rfl, rfl, rfl⟩

/-- Settles O46: a changed register is the target of one of the instruction's writes, and so the instruction is one of
that register's writers; what SRESET writes to INTREF is no change. -/
theorem onlyNamedWritersChangeDeviceState : Obligations.OnlyNamedWritersChangeDeviceState := by
  intro i s t h
  refine ⟨fun hc => ?vref, fun hc => ?gain, fun hc => ?div, fun hc => ?intref⟩
  case vref =>
    obtain ⟨w, hw, d, hd, hne⟩ := exists_devWrite_of_changed DeviceState.vref h hc
    cases w with
    | vref v => exact namedWriter_of_mem_devWrites hw
    | _ => exact absurd hd hne
  case gain =>
    obtain ⟨w, hw, d, hd, hne⟩ := exists_devWrite_of_changed DeviceState.gain h hc
    cases w with
    | gain g => exact namedWriter_of_mem_devWrites hw
    | _ => exact absurd hd hne
  case div =>
    obtain ⟨w, hw, d, hd, hne⟩ := exists_devWrite_of_changed DeviceState.div h hc
    cases w with
    | div k => exact namedWriter_of_mem_devWrites hw
    | _ => exact absurd hd hne
  case intref =>
    obtain ⟨w, hw, d, hd, hne⟩ := exists_devWrite_of_changed DeviceState.intref h hc
    cases w with
    | intref b => exact (namedWriter_of_mem_devWrites hw).resolve_right hne
    | _ => exact absurd hd hne

end Sys2Proof.Machine
end

section
/-! SUPPORT. The memory family: the traffic of an operation with the transport. The Device State and the parameters alone
decide which steps an instruction runs, and those steps make its calls of R212 (`exec_next_shape`). A run that waits goes
on, once replies come, as it would have gone on with them there from the start (`runSteps_lateReplies`). -/

namespace Sys2Proof

/-- The settings SETGAIN and SETDIV accept (R140 step 1, R141 step 1). -/
theorem Factor.ofByte?_isSome_iff {g : Byte} : (Factor.ofByte? g).isSome = true ↔ g = 1#8 ∨ g = 2#8 := by
  unfold Factor.ofByte?
  split <;> simp_all

end Sys2Proof

namespace Sys2Proof.Machine

/-! ### The calls an instruction's steps make -/

theorem sresetSteps_kinds (intref : Bool) :
    (sresetSteps intref).filterMap Micro.kind? = callKinds intref .sreset := by
  cases intref <;> rfl

/-- An instruction ends at once, and then has no call, or runs steps that make its calls of R212; the response or the
steps are the same in every state with these parameters and this Device State. -/
theorem exec_next_shape {i : Instr} {s t : State} (h : exec i s = .next t) :
    (callKinds s.dev.intref i = [] ∧
      ∃ r, ∀ s' : State, s'.cfg = s.cfg → s'.dev = s.dev → exec i s' = .next (s'.respond r)) ∨
    ∃ ms ret, ms.filterMap Micro.kind? = callKinds s.dev.intref i ∧
      ∀ s' : State, s'.cfg = s.cfg → s'.dev = s.dev → exec i s' = .next (s'.start ms ret) := by
  cases i with
  | fget fid w =>
    cases hf : Field.ofFid? fid with
    | none => exact .inl ⟨rfl, illegalResp, fun _ _ _ => by simp only [exec, execFget, hf]; rfl⟩
    | some f => exact .inl ⟨rfl, okResp _, fun _ _ _ => by simp only [exec, execFget, hf]; rfl⟩
  | fset fid val w =>
    cases hf : Field.ofFid? fid with
    | none => exact .inl ⟨rfl, illegalResp, fun _ _ _ => by simp only [exec, execFset, hf]; rfl⟩
    | some f => exact .inl ⟨rfl, okResp _, fun _ _ _ => by simp only [exec, execFset, hf]; rfl⟩
  | v2c v =>
    have hv : ¬ s.dev.vref ≤ 0 := fun hv => by simp [exec, execV2c, hv] at h
    exact .inl ⟨rfl, okResp _, fun _ hc hd => by simp only [exec, execV2c, hc, hd, if_neg hv]; rfl⟩
  | c2v c => exact .inl ⟨rfl, okResp _, fun _ hc hd => by simp only [exec, execC2v, hc, hd]; rfl⟩
  | setv v =>
    have hv : ¬ s.dev.vref ≤ 0 := fun hv => by simp [exec, execSetv, hv] at h
    exact .inr ⟨_, _, rfl, fun _ hc hd => by simp only [exec, execSetv, hc, hd, if_neg hv]; rfl⟩
  | setgain g =>
    have hk := Factor.ofByte?_isSome_iff (g := g)
    cases hg : Factor.ofByte? g with
    | none =>
      exact .inl ⟨if_neg (by simpa [hg] using hk), okResp 0, fun _ _ _ => by simp only [exec, execSetgain, hg]; rfl⟩
    | some k =>
      refine .inr ⟨_, _, ?_, fun _ _ _ => by simp only [exec, execSetgain, hg]; rfl⟩
      exact (if_pos (by simpa [hg] using hk)).symm
  | setdiv g =>
    have hk := Factor.ofByte?_isSome_iff (g := g)
    cases hg : Factor.ofByte? g with
    | none =>
      exact .inl ⟨if_neg (by simpa [hg] using hk), okResp 0, fun _ _ _ => by simp only [exec, execSetdiv, hg]; rfl⟩
    | some k =>
      refine .inr ⟨_, _, ?_, fun _ _ _ => by simp only [exec, execSetdiv, hg]; rfl⟩
      exact (if_pos (by simpa [hg] using hk)).symm
  | sreset => exact .inr ⟨_, .const 0, sresetSteps_kinds _, fun _ _ hd => by simp only [exec, execSreset, hd]⟩
  | _ => exact .inr ⟨_, _, rfl, fun _ _ _ => rfl⟩

/-- The calls an instruction records are calls of steps whose calls are those of R212. -/
theorem exec_called {i : Instr} {s t : State} (h : exec i s = .next t) :
    ∃ ms new, ms.filterMap Micro.kind? = callKinds s.dev.intref i ∧ Called ms s t new := by
  obtain ⟨hk, r, hr⟩ | ⟨ms, ret, hk, hr⟩ := exec_next_shape h
  · cases h.symm.trans (hr s rfl rfl)
    exact ⟨[], [], hk.symm, .empty rfl rfl fun _ => rfl⟩
  · cases h.symm.trans (hr s rfl rfl)
    obtain ⟨new, hc⟩ := runSteps_calls ms 0 ret s
    exact ⟨ms, new, hk, hc⟩

/-! ### Requests and responses -/

/-- A run stands for one request: it is answered, or it is still in progress. -/
theorem Ran.accounted {s t : State} (h : Ran s t) : t.accounted = s.requests.length + 1 + s.responses.length := by
  obtain ⟨hp, r, hr⟩ | ⟨hp, hr, _⟩ := h.ended
  · simp [State.accounted, Phase.isBusy, h.requests, hp, hr]; omega
  · simp [State.accounted, h.requests, hp, hr]

theorem accounted_of_busy {s : State} {reg : U16} {ms : List Micro} {ret : Ret} (h : s.phase = .busy reg ms ret) :
    s.accounted = s.requests.length + 1 + s.responses.length := by
  simp [State.accounted, Phase.isBusy, h]

theorem accounted_of_idle {s : State} (h : s.phase = .idle) :
    s.accounted = s.requests.length + s.responses.length := by
  simp [State.accounted, Phase.isBusy, h]

/-! ### Replies that come later -/

theorem step_of_busy {s : State} {reg : U16} {ms : List Micro} {ret : Ret} (hl : s.resetLine = false)
    (hp : s.phase = .busy reg ms ret) : step s = .next (runSteps ms reg ret s) := by
  simp [step, hl, hp]

/-- More replies of the transport, behind those that are there. -/
def State.deliverAll (late : List Reply) (s : State) : State := { s with answers := s.answers ++ late }

theorem State.deliverAll_answers_cons {s : State} {r : Reply} {rest : List Reply} (late : List Reply)
    (h : s.answers = r :: rest) : (s.deliverAll late).answers = r :: (rest ++ late) := by
  simp [State.deliverAll, h]

theorem State.deliverAll_of_answers_nil {s : State} (late : List Reply) (h : s.answers = []) :
    s.deliverAll late = { s with answers := late } := by
  simp [State.deliverAll, h]

/-- A run that waits has taken every reply. -/
theorem Ran.answers_of_not_idle {s t : State} (h : Ran s t) (hp : t.phase ≠ .idle) : t.answers = [] := by
  obtain ⟨hidle, _⟩ | ⟨_, _, ha⟩ := h.ended
  · exact absurd hidle hp
  · exact ha

/-- The steps from `s` lead to `t`, and with `late` there from the start they lead where `t` leads once `late` has come:
nowhere else if the operation is over, on with the steps left if it waits. -/
structure LateReplies (late : List Reply) (ret : Ret) (ms : List Micro) (reg : U16) (s t : State) : Prop where
  idle : t.phase = .idle → runSteps ms reg ret (s.deliverAll late) = t.deliverAll late
  busy : ∀ reg' ms' ret', t.phase = .busy reg' ms' ret' →
    runSteps ms reg ret (s.deliverAll late) = runSteps ms' reg' ret' (t.deliverAll late)

section
variable {late : List Reply} {ret : Ret} {ms : List Micro} {reg : U16} {s : State}

/-- An operation that is over is not touched by later replies. -/
theorem LateReplies.of_respond {s' : State} {r : Response}
    (h : runSteps ms reg ret (s.deliverAll late) = (s'.deliverAll late).respond r) :
    LateReplies late ret ms reg s (s'.respond r) :=
  ⟨fun _ => h, fun _ _ _ hp => by cases hp⟩

/-- An operation that waits has its first step still to run. -/
theorem LateReplies.of_wait : LateReplies late ret ms reg s (s.wait reg ms ret) where
  idle hp := by cases hp
  busy _ _ _ hp := by cases hp; exact (runSteps_phase _ ms reg ret (s.deliverAll late)).symm

/-- A first step that only leads to other steps, with the late replies as without them. -/
theorem LateReplies.of_step {ms' : List Micro} {reg' : U16} {s' t : State}
    (h : runSteps ms reg ret (s.deliverAll late) = runSteps ms' reg' ret (s'.deliverAll late))
    (ht : LateReplies late ret ms' reg' s' t) : LateReplies late ret ms reg s t where
  idle hp := h.trans (ht.idle hp)
  busy _ _ _ hp := h.trans (ht.busy _ _ _ hp)

end

/-- Blocking is not observable in a run: it takes the replies in order, whenever they come (R36, R40). -/
theorem runSteps_lateReplies (late : List Reply) (ms : List Micro) (reg : U16) (ret : Ret) (s : State) :
    LateReplies late ret ms reg s (runSteps ms reg ret s) := by
  refine runSteps_induct (P := LateReplies late ret) ret
    ?nil ?load ?modify ?mirror ?readWait ?readOk ?readErr ?writeWait ?writeOk ?writeErr ms reg s
  case nil => exact fun _ _ => .of_respond rfl
  case load => exact fun _ _ _ _ _ ih => .of_step runSteps_load ih
  case modify => exact fun _ _ _ _ _ _ ih => .of_step runSteps_modify ih
  case mirror => exact fun _ _ _ _ _ ih => .of_step runSteps_mirror ih
  case readWait => exact fun _ _ _ _ _ => .of_wait
  case readOk =>
    exact fun _ _ _ _ _ _ _ _ h hw ih => .of_step (runSteps_read_ok (State.deliverAll_answers_cons late h) hw) ih
  case readErr =>
    exact fun _ _ _ _ _ _ _ h he => .of_respond (runSteps_read_err (State.deliverAll_answers_cons late h) he)
  case writeWait => exact fun _ _ _ _ _ => .of_wait
  case writeOk =>
    exact fun _ _ _ _ _ _ _ h hw ih => .of_step (runSteps_write_ok (State.deliverAll_answers_cons late h) hw) ih
  case writeErr =>
    exact fun _ _ _ _ _ _ _ h he => .of_respond (runSteps_write_err (State.deliverAll_answers_cons late h) he)

/-- The next step of a run that waits ends where the run would have ended with the replies there from the start. -/
theorem step_of_waiting_run (late : List Reply) {ms : List Micro} {reg : U16} {ret : Ret} {s : State}
    (hl : s.resetLine = false) (hp : (runSteps ms reg ret s).phase ≠ .idle) :
    step { runSteps ms reg ret s with answers := late } = .next (runSteps ms reg ret (s.deliverAll late)) := by
  have hran := runSteps_spec ms reg ret s
  rw [← State.deliverAll_of_answers_nil late (hran.answers_of_not_idle hp)]
  cases hphase : (runSteps ms reg ret s).phase with
  | idle => exact absurd hphase hp
  | busy reg' ms' ret' =>
    rw [(runSteps_lateReplies late ms reg ret s).busy _ _ _ hphase]
    exact step_of_busy (hran.resetLine.trans hl) hphase

/-! ### An operation that is one register write -/

theorem start_write_ok {s : State} {bs : List Byte} {rest : List Reply} (h : s.answers = .ok bs :: rest) (cmd : Byte)
    (v : U16) (w : U64) :
    s.start [.load v, .write cmd] (.const w) = s.after s.dev rest [busW s.cfg.addr cmd v (.ok bs)] (okResp w) := by
  rw [State.start, runSteps_load, runSteps_write_ok h rfl]; rfl

theorem start_write_err {s : State} {e : TransportError} {rest : List Reply} (h : s.answers = .err e :: rest)
    (cmd : Byte) (v : U16) (w : U64) :
    s.start [.load v, .write cmd] (.const w) = s.after s.dev rest [busW s.cfg.addr cmd v (.err e)] (terrResp e) := by
  rw [State.start, runSteps_load, runSteps_write_err h rfl]; rfl

/-! ### The statements -/

/-- Settles O50: the calls recorded are those of the instruction's steps, whose kinds are the sequence of R212. -/
theorem repliesAreTakenInOrder : Obligations.RepliesAreTakenInOrder := by
  intro i s t h
  obtain ⟨ms, new, hk, hc⟩ := exec_called h
  exact ⟨new, hc.trace, hc.answers, hc.replies, hk ▸ hc.kinds, hc.failed, fun hp hn => by
    rw [callCount, ← hk]; exact hc.complete hp hn⟩

/-- Settles O52: a word accepted becomes an operation in progress or a response, an operation in progress stays one or
becomes a response. -/
theorem everyRequestIsAnsweredOnce : Obligations.EveryRequestIsAnsweredOnce := by
  intro s t hl h
  obtain ⟨hreset, _⟩ | ⟨_, _, _, rfl⟩ | ⟨w, rest, _, hp, hr, hw⟩ | ⟨reg, ms, ret, _, hp, rfl⟩ := step_cases h
  · simp [hl] at hreset
  · rfl
  · have hran : Ran { s with requests := rest } t := by
      obtain rfl | ⟨_, _, he⟩ := hw
      · exact respond_spec illegalResp _
      · exact exec_ran he
    rw [hran.accounted, accounted_of_idle hp, hr, List.length_cons]
  · rw [(runSteps_spec ms reg ret s).accounted, accounted_of_busy hp]

/-- Settles O54: the instruction starts the same steps with the late replies as without them, and their run takes the late
replies where it waits. -/
theorem lateRepliesGiveTheSameResult : Obligations.LateRepliesGiveTheSameResult := by
  intro i s t u early late hl ht hu
  obtain ⟨_, r, hr⟩ | ⟨ms, ret, _, hr⟩ := exec_next_shape hu
  · cases hu.symm.trans (hr _ rfl rfl)
    cases ht.symm.trans (hr _ rfl rfl)
    exact ⟨fun _ => rfl, fun hp => absurd rfl hp⟩
  · cases hu.symm.trans (hr _ rfl rfl)
    cases ht.symm.trans (hr _ rfl rfl)
    exact ⟨(runSteps_lateReplies late ms 0 ret _).idle, fun hp =>
      ⟨(runSteps_spec ms 0 ret _).answers_of_not_idle hp,
        step_of_waiting_run late (s := { s with answers := early }) hl hp⟩⟩

/-- Settles O16: the command's step is the one register write, of the bytes `busW` spells out. -/
theorem writeIsOneThreeByteTransaction : Obligations.WriteIsOneThreeByteTransaction :=
  fun _ cmd v _ => ⟨fun _ h => congrArg _ (start_write_ok h cmd v 0), fun _ h => congrArg _ (start_write_err h cmd v 0)⟩

end Sys2Proof.Machine
end

section
/-! SUPPORT. The encoding family: one equation of the decoder per selector and command byte, what a bus frame run alone does,
and the exact voltage that a conversion returns. Every such voltage is the integer form of R132 (`c2v_scaled`), which lies in
the range of R57 (`c2vInt_bounds`) and so comes back from its 64-bit word (`encVolt_exact`). -/

namespace Sys2Proof

/-! ### The operands of an argument word (R53) -/

@[simp] theorem argFid_append (fid x : Byte) (w : U16) : argFid (fid ++ x ++ w) = fid := append3_high fid x w

@[simp] theorem argVal_append (x val : Byte) (w : U16) : argVal (x ++ val ++ w) = val := append3_mid x val w

@[simp] theorem argWord_append (x y : Byte) (w : U16) : argWord (x ++ y ++ w) = w := append_low (x ++ y) w

@[simp] theorem argCmd_append (x cmd : Byte) (v : U16) : argCmd (x ++ cmd ++ v) = cmd := append3_mid x cmd v

@[simp] theorem argValue_append (x y : Byte) (v : U16) : argValue (x ++ y ++ v) = v := append_low (x ++ y) v

@[simp] theorem argCode_append (x c : U16) : argCode (x ++ c) = c := append_low x c

@[simp] theorem argFactor_append (x : BitVec 24) (g : Byte) : argFactor (x ++ g) = g := append_low x g

@[simp] theorem argBit_append (x : BitVec 31) (b : Bool) : argBit (x ++ BitVec.ofBool b) = b := by
  rw [argBit, BitVec.getLsbD_append]; simp

/-! ### The decoder, one equation per selector (R52) -/

section
variable (a : U32)

@[simp] theorem decode_reqWord_fget : decode (reqWord 0x01#8 a) = .ok (.fget (argFid a) (argWord a)) := by
  simp [decode, reqWord, decodeReq]

@[simp] theorem decode_reqWord_fset :
    decode (reqWord 0x02#8 a) = .ok (.fset (argFid a) (argVal a) (argWord a)) := by
  simp [decode, reqWord, decodeReq]

@[simp] theorem decode_reqWord_write : decode (reqWord 0x10#8 a) = .ok (.write (argCmd a) (argValue a)) := by
  simp [decode, reqWord, decodeReq]

@[simp] theorem decode_reqWord_readraw : decode (reqWord 0x11#8 a) = .ok (.readraw (argCmd a)) := by
  simp [decode, reqWord, decodeReq]

@[simp] theorem decode_reqWord_ldac : decode (reqWord 0x12#8 a) = .ok .ldac := by
  simp [decode, reqWord, decodeReq]

@[simp] theorem decode_reqWord_sreset : decode (reqWord 0x13#8 a) = .ok .sreset := by
  simp [decode, reqWord, decodeReq]

@[simp] theorem decode_reqWord_v2c : decode (reqWord 0x20#8 a) = .ok (.v2c a) := by
  simp [decode, reqWord, decodeReq]

@[simp] theorem decode_reqWord_c2v : decode (reqWord 0x21#8 a) = .ok (.c2v (argCode a)) := by
  simp [decode, reqWord, decodeReq]

@[simp] theorem decode_reqWord_setv : decode (reqWord 0x22#8 a) = .ok (.setv a) := by
  simp [decode, reqWord, decodeReq]

@[simp] theorem decode_reqWord_getv : decode (reqWord 0x23#8 a) = .ok .getv := by
  simp [decode, reqWord, decodeReq]

@[simp] theorem decode_reqWord_setgain : decode (reqWord 0x30#8 a) = .ok (.setgain (argFactor a)) := by
  simp [decode, reqWord, decodeReq]

@[simp] theorem decode_reqWord_setdiv : decode (reqWord 0x31#8 a) = .ok (.setdiv (argFactor a)) := by
  simp [decode, reqWord, decodeReq]

@[simp] theorem decode_reqWord_setvref : decode (reqWord 0x32#8 a) = .ok (.setvref a) := by
  simp [decode, reqWord, decodeReq]

@[simp] theorem decode_reqWord_dacpd : decode (reqWord 0x33#8 a) = .ok (.dacpd (argBit a)) := by
  simp [decode, reqWord, decodeReq]

@[simp] theorem decode_reqWord_refpd : decode (reqWord 0x34#8 a) = .ok (.refpd (argBit a)) := by
  simp [decode, reqWord, decodeReq]

@[simp] theorem decode_reqWord_shutdown : decode (reqWord 0x35#8 a) = .ok .shutdown := by
  simp [decode, reqWord, decodeReq]

@[simp] theorem decode_reqWord_init : decode (reqWord 0x40#8 a) = .ok .init := by
  simp [decode, reqWord, decodeReq]

end

/-! ### The decoder, one equation per command byte of a write frame (R58, R60) -/

section
variable (v : U16)

@[simp] theorem decode_w24Word_noop : decode (w24Word Cmd.noop v) = .ok (.w24Noop v) := by
  simp [decode, w24Word, decodeW24, Cmd.noop]

@[simp] theorem decode_w24Word_devid : decode (w24Word Cmd.devid v) = .ok (.w24Devid v) := by
  simp [decode, w24Word, decodeW24, Cmd.devid]

@[simp] theorem decode_w24Word_sync : decode (w24Word Cmd.sync v) = .ok (.w24Sync v) := by
  simp [decode, w24Word, decodeW24, Cmd.sync]

theorem decode_w24Word_config :
    decode (w24Word Cmd.config v) = .ok (if v = wShutdown then .w24ShutdownAll else .w24Config v) := by
  simp [decode, w24Word, decodeW24, Cmd.config]

@[simp] theorem decode_w24Word_gain : decode (w24Word Cmd.gain v) = .ok (.w24Gain v) := by
  simp [decode, w24Word, decodeW24, Cmd.gain]

theorem decode_w24Word_trigger :
    decode (w24Word Cmd.trigger v) =
      .ok (if v = wSreset then .w24SoftReset else if v = wLdac then .w24Ldac else .w24Trigger v) := by
  simp [decode, w24Word, decodeW24, Cmd.trigger]

@[simp] theorem decode_w24Word_status : decode (w24Word Cmd.status v) = .ok (.w24Status v) := by
  simp [decode, w24Word, decodeW24, Cmd.status]

@[simp] theorem decode_w24Word_dac : decode (w24Word Cmd.dac v) = .ok (.w24Dac v) := by
  simp [decode, w24Word, decodeW24, Cmd.dac]

end

/-! ### What decodes to an instruction -/

/-- A write frame that decodes to an instruction is that instruction's word, and the instruction is well-formed. -/
theorem encode_of_decode_w24 {w : BitVec 24} {i : Instr} (h : decode (.w24 w) = .ok i) :
    i.wellFormed = true ∧ encode i = .w24 w := by
  obtain ⟨cmd, v, rfl⟩ := frame_split w
  simp only [decode, decodeW24, frame_cmd, frame_value] at h
  -- `h_4` and `h_6` are CONFIG and TRIGGER, the registers that have constant frames.
  split at h
  case h_4 =>
    injection h with h
    split at h <;> subst h
    · subst v; exact ⟨rfl, by decide⟩
    · exact ⟨bne_iff_ne.2 ‹_›, rfl⟩
  case h_6 =>
    injection h with h
    split at h
    · subst h v; exact ⟨rfl, by decide⟩
    · split at h <;> subst h
      · subst v; exact ⟨rfl, by decide⟩
      · exact ⟨Bool.and_eq_true_iff.2 ⟨bne_iff_ne.2 ‹_›, bne_iff_ne.2 ‹_›⟩, rfl⟩
  all_goals cases h <;> exact ⟨rfl, rfl⟩

/-- A read frame that decodes to an instruction is that instruction's word, and the instruction is well-formed. -/
theorem encode_of_decode_r8 {w : BitVec 8} {i : Instr} (h : decode (.r8 w) = .ok i) :
    i.wellFormed = true ∧ encode i = .r8 w := by
  simp only [decode, decodeR8] at h
  split at h <;> cases h <;> exact ⟨rfl, rfl⟩

/-- An id outside the table of R61 names no field. -/
theorem Field.ofFid?_eq_none {fid : Byte} (h : fid ∉ specFields.map Prod.fst) : Field.ofFid? fid = none := by
  unfold Field.ofFid?
  split
  case h_10 => rfl
  all_goals exact absurd (by decide) h

end Sys2Proof

namespace Sys2Proof.Machine

/-! ### Operations that end at once -/

theorem respond_eq_after (r : Response) (s : State) : s.respond r = s.after s.dev s.answers [] r := by
  simp [State.respond, State.after]

theorem runWord_of_decode_error {w : PortWord} {why : DecodeError} (h : decode w = .error why) (s : State) :
    runWord w s = .next (s.respond illegalResp) := by
  simp only [runWord, h]; rfl

/-! ### An operation that is one register read -/

theorem start_read_ok {s : State} {hi lo : Byte} {tl : List Byte} {rest : List Reply}
    (h : s.answers = .ok (hi :: lo :: tl) :: rest) (cmd : Byte) (ret : Ret) :
    s.start [.read cmd] ret = s.after s.dev rest [busR s.cfg.addr cmd (.ok (hi :: lo :: tl))]
      (okResp (ret.value s.cfg.n s.dev (hi ++ lo))) := by
  rw [State.start, runSteps_read_ok h rfl]; rfl

theorem start_read_err {s : State} {r : Reply} {rest : List Reply} {e : TransportError} (h : s.answers = r :: rest)
    (he : r.readError? = some e) (cmd : Byte) (ret : Ret) :
    s.start [.read cmd] ret = s.after s.dev rest [busR s.cfg.addr cmd r] (terrResp e) := by
  obtain ⟨_, _, hn⟩ | ⟨e', hr, he'⟩ := r.readResult_cases
  · simp [he] at hn
  · cases he.symm.trans he'
    rw [State.start, runSteps_read_err h hr]; rfl

/-! ### The voltage of a code, exactly -/

/-- The divider divides the scale of the integer form, as `N` is at most 16 (R132). -/
theorem factor_dvd_pow (f : Factor) {n : Nat} (hn : n ≤ 16) : (f.val : Int) ∣ 2 ^ (17 - n) := by
  cases f with
  | one => exact one_dvd _
  | two => exact dvd_pow_self 2 (by omega)

/-- The code's voltage in units of `2^-33` V is the integer form of R132. -/
theorem c2v_scaled {n : Nat} {d : DeviceState} {vr : Int} (c : Nat) (hn : n ≤ 16) (hv : d.vref = (vr : Rat) / 65536) :
    c2v n d c * 2 ^ 33 = (c2vInt n vr d.gain d.div c : Rat) := by
  have hd := factor_val_pos d.div
  have hp : (2 : Rat) ^ n * 2 ^ (17 - n) = 131072 := by
    rw [← pow_add, show n + (17 - n) = 17 by omega]; norm_num
  rw [c2vInt, Int.cast_div (dvd_mul_of_dvd_right (factor_dvd_pow d.div hn) _) (by exact_mod_cast hd.ne'), c2v, hv]
  push_cast
  field_simp
  linear_combination (-65536 * c * vr * d.gain.val : Rat) * hp

/-- The scaled code stays below `2^31` unless `N` is 1 and the code is out of range. -/
theorem code_mul_pow_le {n c : Nat} (hn : n ≤ 16) (hc : c < 65536) (hcn : 2 ≤ n ∨ c < 2 ^ n) :
    c * 2 ^ (17 - n) ≤ 65535 * 2 ^ 15 := by
  obtain h2 | hlt := hcn
  · exact Nat.mul_le_mul (Nat.le_of_lt_succ hc) (Nat.pow_le_pow_right two_pos (by omega))
  · calc c * 2 ^ (17 - n) ≤ 2 ^ n * 2 ^ (17 - n) := Nat.mul_le_mul_right _ hlt.le
      _ = 2 ^ 17 := by rw [← pow_add, show n + (17 - n) = 17 by omega]
      _ ≤ 65535 * 2 ^ 15 := by norm_num

theorem factor_val_le_two (f : Factor) : f.val ≤ 2 := by cases f <;> decide

theorem abs_toInt_le (a : U32) : |a.toInt| ≤ 2 ^ 31 :=
  abs_le.2 ⟨a.le_toInt, a.toInt_lt.le⟩

/-- The integer form is in the range of R57 for every VREF operand, unless `N` is 1 and the code is out of range. -/
theorem c2vInt_bounds {n c : Nat} (hn : n ≤ 16) (hc : c < 65536) (hcn : 2 ≤ n ∨ c < 2 ^ n) (a : U32) (g d : Factor) :
    |c2vInt n a.toInt g d c| < 2 ^ 63 := by
  have hcode : ((c * 2 ^ (17 - n) : Nat) : Int) ≤ 65535 * 2 ^ 15 := by exact_mod_cast code_mul_pow_le hn hc hcn
  have hgain : (g.val : Int) ≤ 2 := by exact_mod_cast factor_val_le_two g
  calc |c2vInt n a.toInt g d c| ≤ |c * a.toInt * g.val * 2 ^ (17 - n)| := Int.abs_ediv_le_abs _ _
    _ = ((c * 2 ^ (17 - n) : Nat) : Int) * |a.toInt| * g.val := by
      push_cast; simp only [abs_mul, abs_pow, Nat.abs_cast, Nat.abs_ofNat]; ring
    _ ≤ 65535 * 2 ^ 15 * 2 ^ 31 * 2 := by gcongr; exact abs_toInt_le a
    _ < 2 ^ 63 := by norm_num

/-- A voltage that is a whole number of `2^-33` V in the range of R57 comes back from its word. -/
theorem encVolt_exact {v : Rat} {k : Int} (hv : v * 2 ^ 33 = k) (hk : |k| < 2 ^ 63) :
    ((encVolt v).toInt : Rat) = v * 2 ^ 33 := by
  obtain ⟨hlo, hhi⟩ := abs_lt.1 hk
  have henc : encVolt v = BitVec.ofInt 64 k := by
    simp only [encVolt, Config.rfrac, hv, Rat.den_intCast, Rat.num_intCast]
    exact if_pos ⟨trivial, hlo.le, hhi⟩
  rw [henc, BitVec.toInt_ofInt_eq_self (by decide) hlo.le hhi, hv]

/-- The result word of a code's voltage is exact for every VREF that a request can carry (R57, R127). -/
theorem encVolt_c2v {s : State} {c : Nat} (hv : ∃ a : U32, s.dev.vref = (a.toInt : Rat) / 65536) (hc : c < 65536)
    (hcn : 2 ≤ s.cfg.n ∨ c < 2 ^ s.cfg.n) :
    ((encVolt (c2v s.cfg.n s.dev c)).toInt : Rat) =
      (c : Rat) / 2 ^ s.cfg.n * s.dev.vref / s.dev.div.val * s.dev.gain.val * 2 ^ 33 := by
  obtain ⟨a, ha⟩ := hv
  have hn := s.cfg.n_legal.2
  exact encVolt_exact (c2v_scaled c hn ha) (c2vInt_bounds hn hc hcn a s.dev.gain s.dev.div)

/-- A word's code has `N` bits (R126). -/
theorem fromword_lt {n : Nat} (hn : n ≤ 16) (w : U16) : fromword n w < 2 ^ n := by
  rw [fromword_eq, Nat.div_lt_iff_lt_mul (by positivity), ← pow_add, show n + (16 - n) = 16 by omega]
  exact w.isLt

/-! ### The statements -/

/-- Settles O1: each word is evaluated. -/
theorem decodesWordsOfTheSpec : Obligations.DecodesWordsOfTheSpec := by
  unfold Obligations.DecodesWordsOfTheSpec
  decide

/-- Settles O2: the decoder's equation for each selector. -/
theorem decodesEveryRequestWord : Obligations.DecodesEveryRequestWord := fun a =>
  ⟨decode_reqWord_fget a, decode_reqWord_fset a, decode_reqWord_write a, decode_reqWord_readraw a,
    decode_reqWord_ldac a, decode_reqWord_sreset a, decode_reqWord_v2c a, decode_reqWord_c2v a, decode_reqWord_setv a,
    decode_reqWord_getv a, decode_reqWord_setgain a, decode_reqWord_setdiv a, decode_reqWord_setvref a,
    decode_reqWord_dacpd a, decode_reqWord_refpd a, decode_reqWord_shutdown a, decode_reqWord_init a⟩

/-- Settles O3: every branch of the decoder but the last is for a selector of the list. -/
theorem rejectsEveryUnknownOp : Obligations.RejectsEveryUnknownOp := by
  intro op a h
  simp only [decode, decodeReq, opOf_append]
  split
  case h_18 => rfl
  all_goals exact absurd (by decide) h

/-- Settles O4: the decoder's equation for the word's selector or command byte, and the operands come back from it; a
well-formed general frame spells no constant frame. -/
theorem decodeEncodeAgree : Obligations.DecodeEncodeAgree := by
  intro i hi
  cases i with
  | w24Config v => rw [encode, decode_w24Word_config, if_neg (bne_iff_ne.1 hi)]
  | w24Trigger v =>
    obtain ⟨hs, hl⟩ := Bool.and_eq_true_iff.1 hi
    rw [encode, decode_w24Word_trigger, if_neg (bne_iff_ne.1 hs), if_neg (bne_iff_ne.1 hl)]
  | r8Noop | r8Devid | r8Sync | r8Config | r8Gain | r8Trigger | r8Status | r8Dac => rfl
  | w24SoftReset | w24Ldac | w24ShutdownAll => decide
  | _ => simp [encode]

/-- Settles O5: each kind of frame on its own. -/
theorem frameHasOneReading : Obligations.FrameHasOneReading :=
  ⟨fun _ _ => encode_of_decode_w24, fun _ _ => encode_of_decode_r8⟩

/-- Settles O7: the word is accepted and answered at once. -/
theorem stepAnswersIllegal : Obligations.StepAnswersIllegal := by
  intro s w rest why hl hp hr hd
  rw [step_of_requests_cons hl hp hr, runWord_of_decode_error hd, respond_eq_after]; rfl

/-- Settles O14: the id names no field. -/
theorem unknownFieldIdIsIllegal : Obligations.UnknownFieldIdIsIllegal := by
  intro s fid val w h
  rw [← respond_eq_after]
  simp only [exec, execFget, execFset, Field.ofFid?_eq_none h]
  exact ⟨rfl, rfl⟩

/-- Settles O28: C2V is answered at once with the word of the code's voltage. -/
theorem c2vReturnsExactVoltage : Obligations.C2vReturnsExactVoltage := fun s c =>
  ⟨encVolt (c2v s.cfg.n s.dev c.toNat), congrArg _ (respond_eq_after _ s), fun hv hcn => encVolt_c2v hv c.isLt hcn⟩

/-- Settles O30: GETV is one read, answered with the word of the voltage of the code read, which has `N` bits. -/
theorem getvReturnsExactVoltage : Obligations.GetvReturnsExactVoltage := by
  intro s hi lo tl rest h
  refine ⟨_, congrArg _ (start_read_ok h Cmd.dac .volt), fun hv => ?_⟩
  have hlt := fromword_lt s.cfg.n_legal.2 (hi ++ lo)
  have hle : 2 ^ s.cfg.n ≤ 65536 := Nat.pow_le_pow_right two_pos s.cfg.n_legal.2
  rw [← fromword_eq]
  exact encVolt_c2v hv (hlt.trans_le hle) (.inr hlt)

/-- Settles O31: a code's word is the code times `2^(16 - N)`, and a word's code the quotient by it. -/
theorem codeAlignment : Obligations.CodeAlignment := by
  intro cfg c w hc
  have hw := toword_toNat cfg.n_legal.2 hc
  refine ⟨?_, ?_, fromword_lt cfg.n_legal.2 w⟩
  · rw [fromword_eq, hw, Nat.mul_div_cancel _ (by positivity)]
  · rw [hw, Nat.mul_mod_left]

/-- Settles O40: every frame of the list is the one register write of its command byte and word. -/
theorem writeFramesComplete : Obligations.WriteFramesComplete := by
  intro s v rest i cmd w h
  have hexec : exec i s = frameWrite cmd w s := by
    simp only [List.mem_cons, Prod.mk.injEq, List.not_mem_nil, or_false] at h
    obtain ⟨rfl, rfl, rfl⟩ | ⟨rfl, rfl, rfl⟩ | ⟨rfl, rfl, rfl⟩ | ⟨rfl, rfl, rfl⟩ | ⟨rfl, rfl, rfl⟩ | ⟨rfl, rfl, rfl⟩ |
      ⟨rfl, rfl, rfl⟩ | ⟨rfl, rfl, rfl⟩ | ⟨rfl, rfl, rfl⟩ | ⟨rfl, rfl, rfl⟩ | ⟨rfl, rfl, rfl⟩ := h <;> rfl
  rw [hexec]
  exact ⟨fun _ h => congrArg _ (start_write_ok h cmd w 0), fun _ h => congrArg _ (start_write_err h cmd w 0)⟩

/-- Settles O41: every frame of the list, and READRAW, is the one register read of its command byte. -/
theorem readFramesComplete : Obligations.ReadFramesComplete := by
  intro s c rest i cmd h
  have hexec : exec i s = frameRead cmd s := by
    simp only [List.mem_cons, Prod.mk.injEq, List.not_mem_nil, or_false] at h
    obtain ⟨rfl, rfl⟩ | ⟨rfl, rfl⟩ | ⟨rfl, rfl⟩ | ⟨rfl, rfl⟩ | ⟨rfl, rfl⟩ | ⟨rfl, rfl⟩ | ⟨rfl, rfl⟩ | ⟨rfl, rfl⟩ |
      ⟨rfl, rfl⟩ := h <;> rfl
  rw [hexec]
  exact ⟨fun _ _ _ h => congrArg _ (start_read_ok h cmd .reg), fun _ _ he h => congrArg _ (start_read_err h he cmd .reg)⟩

end Sys2Proof.Machine
end

section
/-! SUPPORT. The register encoder family: the laws of a named field, read off its bits, and FGET and FSET of a field's id.
`get` moves the field's bits down and `set` changes those bits alone (`Field.get_bit`, `Field.set_bit`); two fields of one
register have no bit in common (`Field.apart`). -/

namespace Sys2Proof

/-! ### The bits of a named field (R80) -/

theorem Field.width_le (f : Field) : f.width ≤ 16 := (Nat.le_add_left _ _).trans f.fits

theorem Field.get_bit (f : Field) (w : U16) (i : Nat) :
    (f.get w).getLsbD i = (w.getLsbD (f.shift + i) && decide (i < f.width)) :=
  getField_bit f.width_le w i

theorem Field.set_bit (f : Field) (w x : U16) (i : Nat) :
    (f.set w x).getLsbD i =
      if f.shift ≤ i ∧ i < f.shift + f.width then x.getLsbD (i - f.shift) else w.getLsbD i :=
  setField_bit f.fits w x i

theorem Field.maskInWord_bit (f : Field) {i : Nat} (hi : i < 16) :
    f.maskInWord.getLsbD i = decide (f.shift ≤ i ∧ i < f.shift + f.width) := by
  simp only [Field.maskInWord, BitVec.getLsbD_shiftLeft, fieldMask_bit f.width_le, hi, decide_true, Bool.true_and]
  by_cases hs : f.shift ≤ i
  · simp [hs, show i - f.shift < f.width ↔ i < f.shift + f.width by omega]
  · simp [hs, show i < f.shift by omega]

/-! ### The laws of one field (R88) -/

theorem Field.get_set_same (f : Field) (w x : U16) : f.get (f.set w x) = x &&& fieldMask f.width := by
  refine BitVec.eq_of_getLsbD_eq fun i _ => ?_
  rw [f.get_bit, f.set_bit, BitVec.getLsbD_and, fieldMask_bit f.width_le]
  by_cases hi : i < f.width <;> simp [hi]

theorem Field.set_get_same (f : Field) (w : U16) : f.set w (f.get w) = w := by
  refine BitVec.eq_of_getLsbD_eq fun i _ => ?_
  rw [f.set_bit, f.get_bit]
  split
  case isTrue h => simp [show f.shift + (i - f.shift) = i by omega, show i - f.shift < f.width by omega]
  case isFalse => rfl

theorem Field.set_set_same (f : Field) (w x y : U16) : f.set (f.set w x) y = f.set w y := by
  refine BitVec.eq_of_getLsbD_eq fun i _ => ?_
  simp only [f.set_bit]
  split <;> rfl

/-- Replacing a field keeps every bit outside it. -/
theorem Field.set_outside (f : Field) (w x : U16) : f.set w x &&& ~~~f.maskInWord = w &&& ~~~f.maskInWord := by
  refine BitVec.eq_of_getLsbD_eq fun i hi => ?_
  simp only [BitVec.getLsbD_and, BitVec.getLsbD_not, f.maskInWord_bit hi, f.set_bit]
  split
  case isTrue h => simp [h]
  case isFalse => rfl

/-! ### The laws of two fields of one register (R88) -/

section
variable {f g : Field} (hne : f ≠ g) (hc : f.cmd = g.cmd)
include hne hc

/-- No bit lies in both fields. -/
theorem Field.outside_of_inside {i : Nat} (hg : g.shift ≤ i ∧ i < g.shift + g.width) :
    ¬ (f.shift ≤ i ∧ i < f.shift + f.width) := by
  have := Field.apart hne hc; omega

theorem Field.get_set_other (w x : U16) : g.get (f.set w x) = g.get w := by
  refine BitVec.eq_of_getLsbD_eq fun i _ => ?_
  rw [g.get_bit, g.get_bit, f.set_bit]
  by_cases hi : i < g.width
  · rw [if_neg (Field.outside_of_inside hne hc ⟨Nat.le_add_right _ _, Nat.add_lt_add_left hi _⟩)]
  · simp [hi]

theorem Field.set_set_comm (w x y : U16) : f.set (g.set w y) x = g.set (f.set w x) y := by
  refine BitVec.eq_of_getLsbD_eq fun i _ => ?_
  simp only [Field.set_bit]
  by_cases hg : g.shift ≤ i ∧ i < g.shift + g.width
  · have hf := Field.outside_of_inside hne hc hg
    rw [if_neg hf, if_pos hg, if_pos hg]
  · rw [if_neg hg, if_neg hg]

end

/-! ### The coding of the gain and the divider (R84) -/

theorem gainDec_gainEnc (k : Factor) : gainDec ((gainEnc k).getLsbD 0) = k := by cases k <;> rfl

theorem gainEnc_gainDec (b : Bool) : (gainEnc (gainDec b)).getLsbD 0 = b := by cases b <;> rfl

/-! ### The table of field ids (R61) -/

/-- A field's own id names it. -/
@[simp] theorem Field.ofFid?_fid (f : Field) : Field.ofFid? f.fid = some f := by cases f <;> rfl

/-- Every row of the table of R61 is a named field's. -/
theorem exists_field_of_mem_specFields {fid : Byte} {sh k : Nat} (h : (fid, sh, k) ∈ specFields) :
    ∃ f : Field, fid = f.fid ∧ sh = f.shift ∧ k = f.width := by
  have hrows : specFields = [Field.devid, .dacPwdwn, .refPwdwn, .buffGain, .refDiv, .softReset, .ldac, .refAlarm,
      .data].map fun f => (f.fid, f.shift, f.width) := rfl
  rw [hrows] at h
  obtain ⟨f, -, hf⟩ := List.mem_map.1 h
  simp only [Prod.mk.injEq] at hf
  obtain ⟨rfl, rfl, rfl⟩ := hf
  exact ⟨f, rfl, rfl, rfl⟩

end Sys2Proof

namespace Sys2Proof.Machine

/-! ### FGET and FSET of a field's id (R81, R82) -/

theorem exec_fget_fid (f : Field) (w : U16) (s : State) :
    exec (.fget f.fid w) s = .next (s.after s.dev s.answers [] (okResp ((f.get w).setWidth 64))) := by
  simp only [exec, execFget, Field.ofFid?_fid, ← respond_eq_after, State.respondOk, okResp]

theorem exec_fset_fid (f : Field) (val : Byte) (w : U16) (s : State) :
    exec (.fset f.fid val w) s =
      .next (s.after s.dev s.answers [] (okResp ((f.set w (val.setWidth 16)).setWidth 64))) := by
  simp only [exec, execFset, Field.ofFid?_fid, ← respond_eq_after, State.respondOk, okResp]

/-! ### The reserved bits of the register images (R83 to R85) -/

theorem packConfig_reserved (dacPd refPd : Bool) : packConfig dacPd refPd &&& reservedMask 0x03#8 = 0 := by
  cases dacPd <;> cases refPd <;> rfl

theorem packGain_reserved (g d : Factor) : packGain g d &&& reservedMask 0x04#8 = 0 := by
  cases g <;> cases d <;> rfl

theorem packTrigger_reserved (sr : BitVec 4) (l : Bool) : packTrigger sr l &&& reservedMask 0x05#8 = 0 := by
  decide +revert

/-! ### The statements -/

/-- Settles O11: the laws of one field, of two fields of one register, and of the gain's coding. -/
theorem fieldLaws : Obligations.FieldLaws :=
  ⟨fun f w x y => ⟨f.get_set_same w x, f.set_get_same w, f.set_set_same w x y, f.set_outside w x⟩,
    fun _ _ w x y hne hc => ⟨Field.get_set_other hne hc w x, Field.set_set_comm hne hc w x y⟩,
    gainDec_gainEnc, gainEnc_gainDec⟩

/-- Settles O12: the row is a named field's, and FGET answers what the field holds. -/
theorem fgetReturnsField : Obligations.FgetReturnsField := by
  intro s fid sh k w h
  obtain ⟨f, rfl, rfl, rfl⟩ := exists_field_of_mem_specFields h
  exact exec_fget_fid f w s

/-- Settles O13: the row is a named field's, and FSET answers the word with the field replaced. -/
theorem fsetReplacesField : Obligations.FsetReplacesField := by
  intro s fid val sh k w h
  obtain ⟨f, rfl, rfl, rfl⟩ := exists_field_of_mem_specFields h
  exact exec_fset_fid f val w s

/-- Settles O15: the images at their values are evaluated; the reserved bits are clear for all arguments. -/
theorem registerImages : Obligations.RegisterImages := by
  refine ⟨rfl, rfl, rfl, rfl, rfl, rfl, rfl, rfl, rfl, rfl, rfl, rfl, ?config, ?gain, ?trigger⟩
  case config => exact packConfig_reserved
  case gain => exact packGain_reserved
  case trigger => exact packTrigger_reserved

end Sys2Proof.Machine
end

section
/-! SUPPORT. The register access family: READRAW and LDAC are one transaction. SRESET is its first write
(`runSteps_sresetSteps_ok`) and, where INTREF is false, the body of `REFPD 1` (`runSteps_refpdSteps_ok`), whose one field
is set in the word read by setting its mask's bit (`Field.set_one`). -/

namespace Sys2Proof

/-- Setting a one-bit field to 1 sets its bit and leaves every other bit as it was. -/
theorem Field.set_one {f : Field} (hw : f.width = 1) (w : U16) : f.set w 1 = w ||| f.maskInWord := by
  refine BitVec.eq_of_getLsbD_eq fun i hi => ?_
  rw [Field.set_bit, BitVec.getLsbD_or, Field.maskInWord_bit f hi, hw]
  split
  case isTrue h => simp [show i = f.shift by omega]
  case isFalse h => simp only [h, decide_false, Bool.or_false]

theorem Field.set_refPwdwn_true (w : U16) : Field.refPwdwn.set w (bitWord true) = w ||| 0x0100#16 :=
  Field.set_one rfl w

end Sys2Proof

namespace Sys2Proof.Machine

/-! ### Entries of the trace (R44) -/

/-- The bytes of a word, high byte first, make the word (R31, R33). -/
theorem fromBytes_hiByte_loByte (v : U16) : fromBytes (hiByte v) (loByte v) = v :=
  (BitVec.extractLsb'_append_extractLsb'_eq_extractLsb' (start₁ := 0) (len₁ := 8) rfl).trans BitVec.extractLsb'_eq_self

/-- The bytes of `W(cmd, v)` determine `cmd` and `v`. -/
@[simp] theorem busW_inj {a a' cmd cmd' : Byte} {v v' : U16} {r r' : Reply} :
    busW a cmd v r = busW a' cmd' v' r' ↔ a = a' ∧ cmd = cmd' ∧ v = v' ∧ r = r' := by
  refine ⟨fun h => ?_, by rintro ⟨rfl, rfl, rfl, rfl⟩; rfl⟩
  obtain ⟨rfl, ⟨rfl, hhi, hlo⟩, rfl⟩ : a = a' ∧ (cmd = cmd' ∧ hiByte v = hiByte v' ∧ loByte v = loByte v') ∧ r = r' := by
    simpa [busW, hiByte, loByte, and_assoc] using h
  have hv : v = v' := by rw [← fromBytes_hiByte_loByte v, hhi, hlo, fromBytes_hiByte_loByte]
  exact ⟨rfl, rfl, hv, rfl⟩

@[simp] theorem busW_ne_busR (a cmd : Byte) (v : U16) (r : Reply) (a' cmd' : Byte) (r' : Reply) :
    busW a cmd v r ≠ busR a' cmd' r' := by
  simp [busW, busR]

/-! ### Ending an operation -/

/-- Ending an operation, seen from the state it started in: only the Device State, the replies left and the calls made can
differ by then. -/
theorem respond_eq_after_of_trace {s t : State} {calls : List TraceEntry} {r : Response} (hcfg : t.cfg = s.cfg)
    (hline : t.resetLine = s.resetLine) (hreq : t.requests = s.requests) (htrace : t.trace = s.trace ++ calls)
    (hresp : t.responses = s.responses) : t.respond r = s.after t.dev t.answers calls r := by
  rw [State.after, ← hcfg, ← hline, ← hreq, ← htrace, ← hresp]
  rfl

/-! ### The steps of SRESET -/

/-- SRESET decides on its steps by what INTREF holds when it starts (R104). -/
theorem exec_sreset {s : State} {b : Bool} (h : s.dev.intref = b) :
    exec .sreset s = .next (s.start (sresetSteps b) (.const 0)) := by
  rw [← h]; rfl

/-- The body of `REFPD b` when neither of its calls fails: CONFIG is read and written back with the one bit replaced, and
INTREF is set (R144 steps 1 to 4). -/
theorem runSteps_refpdSteps_ok {s : State} {hi lo : Byte} {tl bs : List Byte} {rest : List Reply}
    (h : s.answers = .ok (hi :: lo :: tl) :: .ok bs :: rest) (b : Bool) (ms : List Micro) (reg : U16) (ret : Ret) :
    runSteps (refpdSteps b ++ ms) reg ret s =
      runSteps ms (Field.refPwdwn.set (hi ++ lo) (bitWord b)) ret
        (((s.called (readCall s.cfg.addr Cmd.config) (.ok (hi :: lo :: tl)) (.ok bs :: rest)).called
          (writeCall s.cfg.addr Cmd.config (Field.refPwdwn.set (hi ++ lo) (bitWord b))) (.ok bs) rest).mirror
            (.intref (intrefAfter b))) := by
  simp only [refpdSteps, List.cons_append, List.nil_append]
  rw [runSteps_read_ok h rfl, runSteps_modify, runSteps_write_ok rfl rfl, runSteps_mirror]
  rfl

/-- SRESET when its first write does not fail: GAIN and DIV take their defaults, and the body of `REFPD 1` is left to run
where INTREF is false (R103). -/
theorem runSteps_sresetSteps_ok {s : State} {bs : List Byte} {rest : List Reply} (h : s.answers = .ok bs :: rest)
    (intref : Bool) (reg : U16) (ret : Ret) :
    runSteps (sresetSteps intref) reg ret s =
      runSteps (if intref then [] else refpdSteps true) wSreset ret
        (((s.called (writeCall s.cfg.addr Cmd.trigger wSreset) (.ok bs) rest).mirror (.gain .two)).mirror (.div .one)) := by
  simp only [sresetSteps, List.cons_append, List.nil_append]
  rw [runSteps_load, runSteps_write_ok h rfl]
  rfl

/-! ### The statements -/

/-- Settles O19: the first write, and after it the body of `REFPD 1` where INTREF is false. -/
theorem sresetCompletes : Obligations.SresetCompletes := by
  refine fun s b0 b1 hi lo tl rest => ⟨fun hint h => ?internal, fun hext h => ?external⟩
  case internal =>
    rw [exec_sreset hint, State.start, runSteps_sresetSteps_ok h]
    rfl
  case external =>
    rw [exec_sreset hext, State.start, runSteps_sresetSteps_ok h, if_neg Bool.false_ne_true,
      ← List.append_nil (refpdSteps true), runSteps_refpdSteps_ok rfl, Field.set_refPwdwn_true]
    exact congrArg _ <| respond_eq_after_of_trace rfl rfl rfl ((List.append_assoc ..).trans (List.append_assoc ..)) rfl

/-- Settles O20: the calls are those of O19, and of these only the re-issue is a write of CONFIG (`busW_inj`,
`busW_ne_busR`), which sets bit 8 of the word read. -/
theorem sresetReissuesExactlyWhenExternal : Obligations.SresetReissuesExactlyWhenExternal := by
  intro s r0 rest h h0 hrest
  obtain ⟨b0, rfl⟩ := Reply.writeError?_eq_none h0
  cases hintref : s.dev.intref with
  | true => exact ⟨_, _, (sresetCompletes s b0 [] 0 0 [] rest).1 hintref h, rfl, by simp, by simp⟩
  | false =>
    obtain ⟨r1, r2, tl, rfl, h1, h2⟩ := hrest hintref
    obtain ⟨hi, lo, more, rfl⟩ := Reply.readError?_eq_none h1
    obtain ⟨b1, rfl⟩ := Reply.writeError?_eq_none h2
    exact ⟨_, _, (sresetCompletes s b0 b1 hi lo more tl).2 hintref h, rfl, by simp, by simp +contextual⟩

/-- Settles O17: READRAW's step is the one register read; of the failing replies, the one too short is a short read. -/
theorem readrawReturnsBigEndianWord : Obligations.ReadrawReturnsBigEndianWord := fun _ cmd _ =>
  ⟨fun _ _ h => congrArg _ (start_read_ok h cmd .reg), fun _ h => congrArg _ (start_read_err h rfl cmd .reg),
    fun _ hlen h => congrArg _ (start_read_err h (if_pos hlen) cmd .reg)⟩

/-- Settles O18: LDAC starts the steps of that WRITE. -/
theorem ldacIsWriteOfTriggerWord : Obligations.LdacIsWriteOfTriggerWord := fun _ _ =>
  ⟨rfl, fun _ h => congrArg _ (start_write_ok h Cmd.trigger wLdac 0),
    fun _ h => congrArg _ (start_write_err h Cmd.trigger wLdac 0)⟩

end Sys2Proof.Machine
end

section
/-! SUPPORT. The conversion family: the forward conversion by its thresholds, and V2C, SETV and GETV of an operand. A
code above 0 is reached exactly from half a code step below its voltage up (`le_v2c_iff`); the properties of R133 are read
off these thresholds. -/

namespace Sys2Proof.Machine

/-! ### The code step (R121) -/

theorem lsb_pos (n : Nat) {d : DeviceState} (h : 0 < d.vref) : 0 < d.lsb n :=
  div_pos (fullscale_pos h) (by positivity)

theorem two_pow_mul_lsb (n : Nat) (d : DeviceState) : 2 ^ n * d.lsb n = d.fullscale :=
  mul_div_cancel₀ _ (by positivity)

/-! ### The thresholds of the forward conversion (R122 to R124) -/

theorem v2c_le (n : Nat) (d : DeviceState) (v : Rat) : v2c n d v ≤ 2 ^ n - 1 := min_le_right _ _

theorem v2c_lt (n : Nat) (d : DeviceState) (v : Rat) : v2c n d v < 2 ^ n :=
  Nat.lt_of_le_pred (by positivity) (v2c_le n d v)

theorem natCast_two_pow_sub_one (n : Nat) : ((2 ^ n - 1 : Nat) : Rat) = 2 ^ n - 1 := by
  rw [Nat.cast_pred (by positivity)]; norm_num

section Positive

variable (n : Nat) {d : DeviceState} (h : 0 < d.vref)
include h

/-- A code above 0 is reached from its threshold up, half a code step below its voltage; code 0 is always reached. -/
theorem le_v2c_iff (v : Rat) {c : Nat} (hc : c ≤ 2 ^ n - 1) :
    c ≤ v2c n d v ↔ c = 0 ∨ ((c : Rat) - 1 / 2) * d.lsb n ≤ v := by
  obtain rfl | hpos := c.eq_zero_or_pos
  · simp
  have hl := lsb_pos n h
  have hone : (1 : Rat) ≤ c := by exact_mod_cast hpos
  have htop : (c : Rat) ≤ 2 ^ n - 1 := natCast_two_pow_sub_one n ▸ Nat.cast_le.2 hc
  have hthreshold : 0 < ((c : Rat) - 1 / 2) * d.lsb n := mul_pos (by linarith) hl
  calc c ≤ v2c n d v ↔ (c : Rat) - 1 / 2 ≤ min (max v 0 / d.lsb n) (2 ^ n) := by
        rw [v2c_eq n v h, le_min_iff, and_iff_left hc, Int.floor_toNat, Nat.le_floor_iff' hpos.ne', sub_le_iff_le_add]
    _ ↔ ((c : Rat) - 1 / 2) * d.lsb n ≤ max v 0 := by
        rw [le_min_iff, and_iff_left (by linarith), le_div_iff₀ hl]
    _ ↔ c = 0 ∨ ((c : Rat) - 1 / 2) * d.lsb n ≤ v := by
        rw [le_max_iff, or_iff_left hthreshold.not_ge, or_iff_right hpos.ne']

/-- A code below the top is not passed below the threshold of the next one. -/
theorem v2c_le_iff (v : Rat) {c : Nat} (hc : c < 2 ^ n - 1) :
    v2c n d v ≤ c ↔ v < ((c : Rat) + 1 / 2) * d.lsb n := by
  rw [← not_lt, ← Nat.succ_le_iff, le_v2c_iff n h v hc, or_iff_right c.succ_ne_zero, not_le, Nat.cast_succ,
    show (c : Rat) + 1 - 1 / 2 = c + 1 / 2 by ring]

/-- The decision interval of a code below the top (R133 item 3). -/
theorem v2c_eq_iff (v : Rat) {c : Nat} (hc : c < 2 ^ n - 1) :
    v2c n d v = c ↔ (c = 0 ∨ ((c : Rat) - 1 / 2) * d.lsb n ≤ v) ∧ v < ((c : Rat) + 1 / 2) * d.lsb n := by
  rw [← le_v2c_iff n h v hc.le, ← v2c_le_iff n h v hc, and_comm, le_antisymm_iff]

/-- The top code is answered from its threshold up (R133 item 3); it is code 0 when there is no other. -/
theorem v2c_eq_top_iff (v : Rat) :
    v2c n d v = 2 ^ n - 1 ↔ 2 ^ n - 1 = 0 ∨ ((2 : Rat) ^ n - 3 / 2) * d.lsb n ≤ v := by
  rw [← (v2c_le n d v).ge_iff_eq, le_v2c_iff n h v le_rfl, natCast_two_pow_sub_one,
    show (2 : Rat) ^ n - 1 - 1 / 2 = 2 ^ n - 3 / 2 by ring]

theorem v2c_of_nonpos {v : Rat} (hv : v ≤ 0) : v2c n d v = 0 := by
  by_contra hne
  have hone : 1 ≤ v2c n d v := Nat.one_le_iff_ne_zero.2 hne
  have hl := lsb_pos n h
  obtain h0 | hle := (le_v2c_iff n h v (hone.trans (v2c_le n d v))).1 hone
  · exact absurd h0 one_ne_zero
  · norm_num at hle; linarith

/-- Already half a code step below full scale the top code is answered. -/
theorem v2c_of_top_le {v : Rat} (hv : d.fullscale - d.lsb n / 2 ≤ v) : v2c n d v = 2 ^ n - 1 := by
  refine (v2c_eq_top_iff n h v).2 (.inr ?_)
  linarith [lsb_pos n h, two_pow_mul_lsb n d]

theorem v2c_mono {v w : Rat} (hvw : v ≤ w) : v2c n d v ≤ v2c n d w :=
  (le_v2c_iff n h w (v2c_le n d v)).2 (((le_v2c_iff n h v (v2c_le n d v)).1 le_rfl).imp_right hvw.trans')

/-- Within the scale no voltage is clamped, and the code is its ratio to the code step, rounded half up. -/
theorem v2c_of_mem_scale {v : Rat} (h0 : 0 ≤ v) (hv : v ≤ d.fullscale) :
    v2c n d v = min ⌊v / d.lsb n + 1 / 2⌋.toNat (2 ^ n - 1) := by
  have hle : v / d.lsb n ≤ 2 ^ n := by rwa [div_le_iff₀ (lsb_pos n h), two_pow_mul_lsb]
  rw [v2c_eq n v h, max_eq_left h0, min_eq_left hle]

/-- A code's voltage is above the code's own threshold and below the next (R133 item 4). -/
theorem v2c_c2v {c : Nat} (hc : c < 2 ^ n) : v2c n d (c2v n d c) = c := by
  have hl := lsb_pos n h
  have htop : c ≤ 2 ^ n - 1 := Nat.le_pred_of_lt hc
  rw [c2v_eq]
  refine le_antisymm ?_ ((le_v2c_iff n h _ htop).2 (.inr (by linarith)))
  obtain hlt | rfl := htop.lt_or_eq
  · exact (v2c_le_iff n h _ hlt).2 (by linarith)
  · exact v2c_le n d _

/-- From half a code step below full scale up the code's voltage is the top one, a code step below full scale. -/
theorem c2v_v2c_of_top_le {v : Rat} (hv : d.fullscale - d.lsb n / 2 ≤ v) :
    c2v n d (v2c n d v) = d.fullscale - d.lsb n := by
  rw [v2c_of_top_le n h hv, c2v_eq, natCast_two_pow_sub_one, sub_mul, one_mul, two_pow_mul_lsb]

/-- The voltage of the code answered is at most half a code step off, up to half a code step below full scale. -/
theorem abs_c2v_v2c_sub_le {v : Rat} (h0 : 0 ≤ v) (hv : v < d.fullscale - d.lsb n / 2) :
    |c2v n d (v2c n d v) - v| ≤ d.lsb n / 2 := by
  have hl := lsb_pos n h
  have hlow : ((v2c n d v : Rat) - 1 / 2) * d.lsb n ≤ v := by
    obtain hz | hle := (le_v2c_iff n h v (v2c_le n d v)).1 le_rfl
    · rw [hz, Nat.cast_zero]; linarith
    · exact hle
  have hhigh : v < ((v2c n d v : Rat) + 1 / 2) * d.lsb n := by
    obtain hlt | htop := (v2c_le n d v).lt_or_eq
    · exact (v2c_le_iff n h v hlt).1 le_rfl
    · rw [htop, natCast_two_pow_sub_one]; linarith [two_pow_mul_lsb n d]
  rw [c2v_eq, abs_le]
  constructor <;> linarith

end Positive

/-! ### The integer form (R132) -/

theorem fullscale_le_iff {d : DeviceState} {vr : Int} (vi : Int) (hv : d.vref = (vr : Rat) / 65536) :
    d.fullscale ≤ (vi : Rat) / 65536 ↔ vr * d.gain.val ≤ vi * d.div.val := by
  rw [DeviceState.fullscale, hv, div_le_iff₀ (factor_val_pos d.div), div_mul_eq_mul_div, div_mul_eq_mul_div,
    div_le_div_iff_of_pos_right (by norm_num)]
  norm_cast

/-- The value that is rounded down, as the quotient of the integer form. -/
theorem floor_div_lsb (n : Nat) {d : DeviceState} {vr : Int} (vi : Int) (hv : d.vref = (vr : Rat) / 65536)
    (hvr : 0 < vr) : ⌊(vi : Rat) / 65536 / d.lsb n + 1 / 2⌋ =
      (2 * vi * 2 ^ n * d.div.val + vr * d.gain.val) / (2 * vr * d.gain.val) := by
  have hg := factor_val_pos d.gain
  have hd := factor_val_pos d.div
  lift vr to Nat using hvr.le
  have hr : (0 : Rat) < vr := by exact_mod_cast hvr
  have hratio : (vi : Rat) / 65536 / d.lsb n + 1 / 2 =
      ((2 * vi * 2 ^ n * d.div.val + vr * d.gain.val : Int) : Rat) / (2 * vr * d.gain.val : Nat) := by
    rw [DeviceState.lsb, DeviceState.fullscale, hv]
    push_cast
    field_simp
  rw [hratio, Rat.floor_intCast_div_natCast]
  push_cast
  rfl

/-- The forward conversion on multiples of `2^-16` is its integer form, branch by branch. -/
theorem v2c_eq_v2cInt (n : Nat) {d : DeviceState} {vr : Int} (vi : Int) (hv : d.vref = (vr : Rat) / 65536)
    (hvr : 0 < vr) : v2c n d ((vi : Rat) / 65536) = v2cInt n vr d.gain d.div vi := by
  have hr : (0 : Rat) < vr := by exact_mod_cast hvr
  have hpos : 0 < d.vref := by rw [hv]; positivity
  unfold v2cInt
  split_ifs with hneg hfull
  · exact v2c_of_nonpos n hpos (div_nonpos_of_nonpos_of_nonneg (by exact_mod_cast hneg.le) (by norm_num))
  · exact v2c_of_top_le n hpos (by linarith [(fullscale_le_iff vi hv).2 hfull, lsb_pos n hpos])
  · have h0 : (0 : Rat) ≤ (vi : Rat) / 65536 := div_nonneg (by exact_mod_cast not_lt.1 hneg) (by norm_num)
    have hle : (vi : Rat) / 65536 ≤ d.fullscale := (not_le.1 (mt (fullscale_le_iff vi hv).1 hfull)).le
    rw [v2c_of_mem_scale n hpos h0 hle, floor_div_lsb n vi hv hvr]

/-! ### V2C and SETV of an operand -/

/-- The word of a code is the code times `2^(16 - N)`, as a word (R125). -/
theorem toword_eq_ofNat (n c : Nat) : toword n c = BitVec.ofNat 16 (c * 2 ^ (16 - n)) :=
  BitVec.eq_of_toNat_eq (by simp [toword, Nat.shiftLeft_eq])

theorem exec_v2c_of_pos {s : State} (h : 0 < s.dev.vref) (a : U32) :
    exec (.v2c a) s = .next (s.respondOk (BitVec.ofNat 64 (v2c s.cfg.n s.dev (volt a)))) := if_neg h.not_ge

theorem exec_setv_of_pos {s : State} (h : 0 < s.dev.vref) (a : U32) :
    exec (.setv a) s = .next (s.start [.load (toword s.cfg.n (v2c s.cfg.n s.dev (volt a))), .write Cmd.dac]
      (.const (BitVec.ofNat 64 (v2c s.cfg.n s.dev (volt a))))) := if_neg h.not_ge

/-! ### The statements -/

/-- Settles O23: the thresholds of the code and of the next one; there is a top code above 0 as `N` is at least 1. -/
theorem v2cDecisionIntervals : Obligations.V2cDecisionIntervals := by
  rintro n d v _ hn h rfl
  have htop : 2 ^ n - 1 ≠ 0 := (Nat.sub_pos_of_lt (Nat.one_lt_two_pow (Nat.ne_of_gt hn))).ne'
  exact ⟨fun c hc => v2c_eq_iff n h v hc, (v2c_eq_top_iff n h v).trans (or_iff_right htop), v2c_lt n d v⟩

/-- Settles O24: a higher voltage has reached every threshold that a lower one has. -/
theorem v2cClampsAndIsMonotone : Obligations.V2cClampsAndIsMonotone := fun n _ h =>
  ⟨fun _ => v2c_of_nonpos n h, fun _ hv => v2c_of_top_le n h ((sub_le_self _ (half_pos (lsb_pos n h)).le).trans hv),
    fun _ _ => v2c_mono n h⟩

/-- Settles O25: the voltage in the statement is that of the code. -/
theorem codeRoundTripIsExact : Obligations.CodeRoundTripIsExact := fun n _ _ h hc => v2c_c2v n h hc

/-- Settles O26: up to half a code step below full scale the voltage lies in its code's interval, from there up the
code's voltage is the top one. -/
theorem quantisationErrorBound : Obligations.QuantisationErrorBound := by
  intro n d v fs lsb h hfs hlsb
  obtain rfl : fs = d.fullscale := hfs
  obtain rfl : lsb = d.lsb n := hlsb
  refine ⟨abs_c2v_v2c_sub_le n h, fun hlow hhigh => ?_⟩
  have hl := lsb_pos n h
  rw [c2v_v2c_of_top_le n h hlow, abs_sub_comm]
  exact ⟨abs_of_nonneg (by linarith), by linarith⟩

/-- Settles O27: forward branch by branch, back as the divider divides the scale. -/
theorem integerFormAgrees : Obligations.IntegerFormAgrees := fun n d _ vi c hn hv =>
  ⟨v2c_eq_v2cInt n vi hv, c2v_scaled c hn hv, dvd_mul_of_dvd_right (factor_dvd_pow d.div hn) _⟩

/-- Settles O29: SETV is one write of the code's word to DAC-DATA, answered with the code. -/
theorem setvWritesCode : Obligations.SetvWritesCode := by
  rintro s a _ rest rfl
  simp only [← volt_eq, ← toword_eq_ofNat]
  refine ⟨fun h bs hans => ?_, fun h e hans => ?_, fun h => if_pos h⟩
  · rw [exec_setv_of_pos h, start_write_ok hans]; rfl
  · rw [exec_setv_of_pos h, start_write_err hans]; rfl

/-- Settles O22: V2C is answered at once with the code. -/
theorem v2cReturnsCode : Obligations.V2cReturnsCode := fun s a =>
  ⟨fun h => by rw [exec_v2c_of_pos h, ← volt_eq, ← respond_eq_after]; rfl, fun h => if_pos h⟩

/-- Settles O44: GETV is the one register read. -/
theorem getvErrorLeavesState : Obligations.GetvErrorLeavesState := fun _ _ _ _ he h =>
  congrArg _ (start_read_err h he Cmd.dac .volt)

end Sys2Proof.Machine
end

section
/-! SUPPORT. The power and configuration family: SETGAIN, SETDIV, DACPD and REFPD replace one bit of a register and then write
the Device State (`start_rmw_ok`); SETVREF writes it at once, and SHUTDOWN after one register write. A bit is cleared by its
field's mask as it is set by it (`Field.set_zero`, `Field.set_one`). -/

namespace Sys2Proof

/-- Setting a field to 0 clears its bits and leaves every other bit as it was. -/
theorem Field.set_zero (f : Field) (w : U16) : f.set w 0 = w &&& ~~~f.maskInWord := by
  refine BitVec.eq_of_getLsbD_eq fun i hi => ?_
  rw [Field.set_bit, BitVec.getLsbD_and, BitVec.getLsbD_not, Field.maskInWord_bit f hi]
  split
  case isTrue h => simp [h]
  case isFalse h => simp [h, hi]

end Sys2Proof

namespace Sys2Proof.Machine

/-! ### Ending an operation -/

/-- A call answered before an operation's end is the first of the operation's calls. -/
theorem State.called_after (s : State) (c : TxCall) (r : Reply) (rest as : List Reply) (d : DeviceState)
    (calls : List TraceEntry) (resp : Response) :
    (s.called c r rest).after d as calls resp = s.after d as (⟨c, some r⟩ :: calls) resp := by
  simp [State.after, State.called]

/-- Steps that only write the Device State make their writes in order, and the operation ends. -/
theorem runSteps_mirrors (ws : List DevWrite) (reg : U16) (w : U64) (s : State) :
    runSteps (ws.map .mirror) reg (.const w) s = s.after (s.dev.applyAll ws) s.answers [] (okResp w) := by
  induction ws generalizing s with
  | nil => exact respond_eq_after _ s
  | cons _ _ ih => exact ih _

/-! ### A read-modify-write of one field -/

/-- A read-modify-write of one field, then Device State writes, when neither call fails: the register is read and written back
with the field replaced (R140, R141, R143, R144). -/
theorem start_rmw_ok {s : State} {hi lo : Byte} {tl bs : List Byte} {rest : List Reply}
    (h : s.answers = .ok (hi :: lo :: tl) :: .ok bs :: rest) {f : Field} {x v : U16} (hv : f.set (hi ++ lo) x = v)
    (ws : List DevWrite) (w : U64) :
    s.start (rmwSteps f x ++ ws.map .mirror) (.const w) = s.after (s.dev.applyAll ws) rest
      [busR s.cfg.addr f.cmd (.ok (hi :: lo :: tl)), busW s.cfg.addr f.cmd v (.ok bs)] (okResp w) := by
  subst hv
  simp only [rmwSteps, List.cons_append, List.nil_append]
  rw [State.start, runSteps_read_ok h rfl, runSteps_modify, runSteps_write_ok rfl rfl, runSteps_mirrors,
    State.called_after, State.called_after]
  rfl

/-! ### The statements -/

/-- Settles O32: the read-modify-write of bit 0 of GAIN, cleared for 1 and set for 2. -/
theorem setgainCompletes : Obligations.SetgainCompletes := fun _ hi lo _ _ _ h =>
  ⟨congrArg _ (start_rmw_ok h (Field.set_zero .buffGain (hi ++ lo)) [.gain .one] 0),
    congrArg _ (start_rmw_ok h (Field.set_one (f := .buffGain) rfl (hi ++ lo)) [.gain .two] 0)⟩

/-- Settles O33: the read-modify-write of bit 8 of GAIN, cleared for 1 and set for 2. -/
theorem setdivCompletes : Obligations.SetdivCompletes := fun _ hi lo _ _ _ h =>
  ⟨congrArg _ (start_rmw_ok h (Field.set_zero .refDiv (hi ++ lo)) [.div .one] 0),
    congrArg _ (start_rmw_ok h (Field.set_one (f := .refDiv) rfl (hi ++ lo)) [.div .two] 0)⟩

/-- Settles O36: the read-modify-write of bit 0 of CONFIG, and no Device State write. -/
theorem dacpdCompletes : Obligations.DacpdCompletes := fun _ hi lo _ _ _ h =>
  ⟨congrArg _ (start_rmw_ok h (Field.set_one (f := .dacPwdwn) rfl (hi ++ lo)) [] 0),
    congrArg _ (start_rmw_ok h (Field.set_zero .dacPwdwn (hi ++ lo)) [] 0)⟩

/-- Settles O37: the read-modify-write of bit 8 of CONFIG, then INTREF gets that bit's complement. -/
theorem refpdCompletes : Obligations.RefpdCompletes := fun _ hi lo _ _ _ h =>
  ⟨congrArg _ (start_rmw_ok h (Field.set_refPwdwn_true (hi ++ lo)) [.intref false] 0),
    congrArg _ (start_rmw_ok h (Field.set_zero .refPwdwn (hi ++ lo)) [.intref true] 0)⟩

/-- Settles O35: SETVREF is one Device State write, of the operand's voltage. -/
theorem setvrefStoresAnyVoltage : Obligations.SetvrefStoresAnyVoltage := by
  intro s a
  rw [← volt_eq]
  exact congrArg _ (runSteps_mirrors [.vref (volt a)] 0 0 s)

/-- Settles O38: one write of CONFIG; after it INTREF is cleared, and an error comes before that. -/
theorem shutdownCompletes : Obligations.ShutdownCompletes := by
  refine fun s rest => ⟨fun bs h => congrArg Host.Outcome.next ?ok, fun e h => congrArg Host.Outcome.next ?err⟩
  case ok =>
    rw [State.start, runSteps_load, runSteps_write_ok h rfl]
    exact (runSteps_mirrors [.intref false] wShutdown 0 _).trans (State.called_after ..)
  case err =>
    rw [State.start, runSteps_load, runSteps_write_err h rfl]
    rfl

end Sys2Proof.Machine
end

section
/-! SUPPORT. The lifecycle family: INIT writes the defaults and runs the body of `REFPD 1` (`runSteps_refpdSteps_ok`); from there
it is SRESET with INTREF false (`exec_init_of_refpd_ok`), whose result is O19 (`sresetCompletes`). -/

namespace Sys2Proof.Machine

/-- INIT when neither call of its `REFPD 1` fails: what is left to run is SRESET, from the default Device State
(R160 steps 1 and 2; D11). -/
theorem exec_init_of_refpd_ok {s : State} {hi lo : Byte} {tl bs : List Byte} {rest : List Reply}
    (h : s.answers = .ok (hi :: lo :: tl) :: .ok bs :: rest) :
    exec .init s = exec .sreset
      ((State.called (readCall s.cfg.addr Cmd.config) (.ok (hi :: lo :: tl)) (.ok bs :: rest)
        { s with dev := DeviceState.reset }).called
          (writeCall s.cfg.addr Cmd.config ((hi ++ lo) ||| 0x0100#16)) (.ok bs) rest) := by
  rw [exec_sreset rfl, ← Field.set_refPwdwn_true]
  exact congrArg _ <| runSteps_refpdSteps_ok
    (s := ((s.mirror (.vref Config.vrefDefault)).mirror (.gain .two)).mirror (.div .one)) h true (sresetSteps false) 0 (.const 0)

/-- Settles O39: after the two calls of `REFPD 1` the three of SRESET follow, and SRESET keeps the default VREF. -/
theorem initCompletes : Obligations.InitCompletes := by
  intro s h1 l1 h2 l2 t1 t2 b1 b2 b3 rest h
  rw [exec_init_of_refpd_ok h, (sresetCompletes _ b2 b3 h2 l2 t2 rest).2 rfl rfl, State.called_after, State.called_after,
    DeviceState.reset_eq]
  rfl

end Sys2Proof.Machine
end

section
/-! SUPPORT. The exceptions family: what a failing call leaves. An instruction without calls is over at once and not with TERR
(`exec_of_callKinds_nil`). A run is answered TERR exactly where the last call it recorded has failed (`runSteps_reported`). A
read-modify-write fails at its read (`runSteps_rmw_readErr`) or at its write (`runSteps_rmw_writeErr`); the body of `REFPD 1`
in SRESET and INIT starts with one, and what INIT does after that body is SRESET (`exec_init_of_sreset`). -/

namespace Sys2Proof

/-- A number outside 1, 2 names no setting (R140 step 1, R141 step 1). -/
theorem Factor.ofByte?_eq_none {g : Byte} (h1 : g ≠ 1#8) (h2 : g ≠ 2#8) : Factor.ofByte? g = none :=
  Option.not_isSome_iff_eq_none.1 fun h => (Factor.ofByte?_isSome_iff.1 h).elim h1 h2

end Sys2Proof

namespace Sys2Proof.Machine

/-! ### Replies -/

theorem Reply.readResult_eq_error_iff {r : Reply} {e : TransportError} :
    r.readResult = .error e ↔ r.readError? = some e := by
  obtain ⟨_, hr, hn⟩ | ⟨_, hr, he⟩ := r.readResult_cases
  · simp [hr, hn]
  · simp [hr, he]

theorem Reply.writeResult_eq_error_iff {r : Reply} {e : TransportError} :
    r.writeResult = .error e ↔ r.writeError? = some e := by
  obtain ⟨hr, hn⟩ | ⟨_, hr, he⟩ := r.writeResult_cases
  · simp [hr, hn]
  · simp [hr, he]

/-- A reply that gives a word is no failure of the read it is recorded with. -/
theorem readCall_error?_eq_none {r : Reply} {w : U16} (h : r.readResult = .ok w) (addr cmd : Byte) :
    TraceEntry.error? ⟨readCall addr cmd, some r⟩ = none :=
  Option.eq_none_iff_forall_ne_some.2 fun _ he => by cases h.symm.trans (Reply.readResult_eq_error_iff.2 he)

/-- A reply that lets a write go on is no failure of the write it is recorded with. -/
theorem writeCall_error?_eq_none {r : Reply} (h : r.writeResult = .ok ()) (addr cmd : Byte) (v : U16) :
    TraceEntry.error? ⟨writeCall addr cmd v, some r⟩ = none :=
  Option.eq_none_iff_forall_ne_some.2 fun _ he => by cases h.symm.trans (Reply.writeResult_eq_error_iff.2 he)

/-! ### An instruction without calls (R171) -/

/-- SETGAIN with an invalid setting is answered OK 0 and does nothing else (R175). -/
theorem exec_setgain_invalid {g : Byte} (h1 : g ≠ 1#8) (h2 : g ≠ 2#8) (s : State) :
    exec (.setgain g) s = .next (s.after s.dev s.answers [] (okResp 0)) := by
  simp only [exec, execSetgain, Factor.ofByte?_eq_none h1 h2, ← respond_eq_after]; rfl

/-- SETDIV with an invalid setting is answered OK 0 and does nothing else (R175). -/
theorem exec_setdiv_invalid {g : Byte} (h1 : g ≠ 1#8) (h2 : g ≠ 2#8) (s : State) :
    exec (.setdiv g) s = .next (s.after s.dev s.answers [] (okResp 0)) := by
  simp only [exec, execSetdiv, Factor.ofByte?_eq_none h1 h2, ← respond_eq_after]; rfl

/-- An instruction without calls is over at once, takes no reply, records no call, and is not answered TERR. -/
theorem exec_of_callKinds_nil {i : Instr} {s t : State} (hk : callKinds s.dev.intref i = []) (h : exec i s = .next t) :
    ∃ d r, t = s.after d s.answers [] r ∧ r.status ≠ .terr := by
  cases i with
  | fget fid w =>
    simp only [exec, execFget] at h
    split at h <;> cases h <;> exact ⟨_, _, respond_eq_after _ s, nofun⟩
  | fset fid val w =>
    simp only [exec, execFset] at h
    split at h <;> cases h <;> exact ⟨_, _, respond_eq_after _ s, nofun⟩
  | v2c v =>
    simp only [exec, execV2c] at h
    split at h <;> cases h
    exact ⟨_, _, respond_eq_after _ s, nofun⟩
  | c2v c => cases h; exact ⟨_, _, respond_eq_after _ s, nofun⟩
  | setvref v => cases (setvrefStoresAnyVoltage s v).symm.trans h; exact ⟨_, _, rfl, nofun⟩
  | setgain g =>
    obtain ⟨h1, h2⟩ : g ≠ 1#8 ∧ g ≠ 2#8 := by simpa [callKinds] using hk
    cases (exec_setgain_invalid h1 h2 s).symm.trans h; exact ⟨_, _, rfl, nofun⟩
  | setdiv g =>
    obtain ⟨h1, h2⟩ : g ≠ 1#8 ∧ g ≠ 2#8 := by simpa [callKinds] using hk
    cases (exec_setdiv_invalid h1 h2 s).symm.trans h; exact ⟨_, _, rfl, nofun⟩
  | _ => cases hk

/-! ### What a run reports (R172, R178) -/

/-- The error of the last of an operation's calls, if it failed. -/
def lastError? (calls : List TraceEntry) : Option TransportError := calls.getLast?.bind TraceEntry.error?

/-- A call that did not fail, put before the others, does not change the error of the last one. -/
theorem lastError?_cons {c : TraceEntry} (hc : c.error? = none) (calls : List TraceEntry) :
    lastError? (c :: calls) = lastError? calls := by
  cases calls with
  | nil => exact hc
  | cons d calls => simp only [lastError?, List.getLast?_cons_cons]

/-- An operation from `s` to `t` records `calls`; if the last of them has failed it is over with that error, and only then is
it answered TERR. -/
structure Reported (s t : State) (calls : List TraceEntry) : Prop where
  trace : t.trace = s.trace ++ calls
  failed : ∀ e, lastError? calls = some e → t.phase = .idle ∧ t.responses = s.responses ++ [terrResp e]
  terr : ∀ r, t.responses = s.responses ++ [r] → r.status = .terr → ∃ e, lastError? calls = some e

/-- An operation that ends without a call, and not with TERR. -/
theorem Reported.of_after {s : State} {d : DeviceState} {as : List Reply} {r : Response} (hr : r.status ≠ .terr) :
    Reported s (s.after d as [] r) [] where
  trace := rfl
  failed := nofun
  terr r' h hr' := by
    obtain rfl : r = r' := by simpa using h
    exact absurd hr' hr

/-- An operation that waits gives no response. -/
theorem Reported.of_wait {s : State} (reg : U16) (ms : List Micro) (ret : Ret) : Reported s (s.wait reg ms ret) [] where
  trace := (List.append_nil _).symm
  failed := nofun
  terr _ h _ := by simp at h

/-- A call that fails ends the operation. -/
theorem Reported.of_failing {s : State} {c : TxCall} {r : Reply} {e : TransportError}
    (he : TraceEntry.error? ⟨c, some r⟩ = some e) (rest : List Reply) :
    Reported s ((s.called c r rest).raiseTransport e) [⟨c, some r⟩] where
  trace := rfl
  failed e' h := by cases he.symm.trans h; exact ⟨rfl, rfl⟩
  terr _ _ _ := ⟨e, he⟩

/-- A call that does not fail, before the others. -/
theorem Reported.cons {s t : State} {c : TxCall} {r : Reply} {rest : List Reply} {calls : List TraceEntry}
    (he : TraceEntry.error? ⟨c, some r⟩ = none) (h : Reported (s.called c r rest) t calls) :
    Reported s t (⟨c, some r⟩ :: calls) where
  trace := by simpa using h.trace
  failed e hl := h.failed e (lastError?_cons he calls ▸ hl)
  terr r hr hs := lastError?_cons he calls ▸ h.terr r hr hs

/-- Of a run's calls the last one alone decides on TERR (R172). -/
theorem runSteps_reported (ms : List Micro) (reg : U16) (ret : Ret) (s : State) :
    ∃ calls, Reported s (runSteps ms reg ret s) calls := by
  refine runSteps_induct (P := fun _ _ s t => ∃ calls, Reported s t calls) ret
    ?nil ?load ?modify ?mirror ?readWait ?readOk ?readErr ?writeWait ?writeOk ?writeErr ms reg s
  case nil => exact fun _ s => ⟨[], by rw [State.respondOk, respond_eq_after]; exact .of_after nofun⟩
  case load => exact fun _ _ _ _ _ ih => ih
  case modify => exact fun _ _ _ _ _ _ ih => ih
  case mirror => exact fun _ _ _ _ _ ⟨calls, h⟩ => ⟨calls, h.trace, h.failed, h.terr⟩
  case readWait => exact fun _ _ _ _ _ => ⟨[], .of_wait ..⟩
  case readOk => exact fun _ _ _ _ _ _ _ _ _ hw ⟨_, h⟩ => ⟨_, .cons (readCall_error?_eq_none hw ..) h⟩
  case readErr => exact fun cmd _ _ s r rest e _ he =>
    ⟨_, .of_failing (c := readCall s.cfg.addr cmd) (Reply.readResult_eq_error_iff.1 he) rest⟩
  case writeWait => exact fun _ _ _ _ _ => ⟨[], .of_wait ..⟩
  case writeOk => exact fun _ _ _ _ _ _ _ _ hw ⟨_, h⟩ => ⟨_, .cons (writeCall_error?_eq_none hw ..) h⟩
  case writeErr => exact fun cmd _ reg s r rest e _ he =>
    ⟨_, .of_failing (c := writeCall s.cfg.addr cmd reg) (Reply.writeResult_eq_error_iff.1 he) rest⟩

theorem exec_reported {i : Instr} {s t : State} (h : exec i s = .next t) : ∃ calls, Reported s t calls := by
  obtain ⟨hk, _⟩ | ⟨ms, ret, _, hr⟩ := exec_next_shape h
  · obtain ⟨_, _, rfl, hs⟩ := exec_of_callKinds_nil hk h
    exact ⟨[], .of_after hs⟩
  · cases h.symm.trans (hr s rfl rfl)
    exact runSteps_reported ms 0 ret s

/-! ### A run that a call ends -/

section
variable {s : State} {rest : List Reply} {e : TransportError}

theorem runSteps_read_fail {r : Reply} (h : s.answers = r :: rest) (he : r.readError? = some e) (cmd : Byte)
    (ms : List Micro) (reg : U16) (ret : Ret) :
    runSteps (.read cmd :: ms) reg ret s = s.after s.dev rest [busR s.cfg.addr cmd r] (terrResp e) := by
  rw [runSteps_read_err h (Reply.readResult_eq_error_iff.2 he)]; rfl

theorem runSteps_write_fail (h : s.answers = .err e :: rest) (cmd : Byte) (ms : List Micro) (reg : U16) (ret : Ret) :
    runSteps (.write cmd :: ms) reg ret s = s.after s.dev rest [busW s.cfg.addr cmd reg (.err e)] (terrResp e) := by
  rw [runSteps_write_err h rfl]; rfl

/-- A read-modify-write whose read fails makes no write. -/
theorem runSteps_rmw_readErr {r : Reply} (h : s.answers = r :: rest) (he : r.readError? = some e) (f : Field) (x : U16)
    (ms : List Micro) (reg : U16) (ret : Ret) :
    runSteps (rmwSteps f x ++ ms) reg ret s = s.after s.dev rest [busR s.cfg.addr f.cmd r] (terrResp e) :=
  runSteps_read_fail h he f.cmd _ reg ret

/-- A read-modify-write whose write fails has tried to write the word read with its field replaced. -/
theorem runSteps_rmw_writeErr {hi lo : Byte} {tl : List Byte} (h : s.answers = .ok (hi :: lo :: tl) :: .err e :: rest)
    (f : Field) (x : U16) (ms : List Micro) (reg : U16) (ret : Ret) :
    runSteps (rmwSteps f x ++ ms) reg ret s = s.after s.dev rest
      [busR s.cfg.addr f.cmd (.ok (hi :: lo :: tl)), busW s.cfg.addr f.cmd (f.set (hi ++ lo) x) (.err e)] (terrResp e) := by
  simp only [rmwSteps, List.cons_append, List.nil_append]
  rw [runSteps_read_ok h rfl, runSteps_modify, runSteps_write_fail rfl, State.called_after]
  rfl

end

/-- SRESET with INTREF false, after its first write: GAIN and DIV are at their defaults, and the read-modify-write of CONFIG is
left, then the write of INTREF (R103). -/
theorem exec_sreset_of_write_ok {s : State} {bs : List Byte} {rest : List Reply} (hext : s.dev.intref = false)
    (h : s.answers = .ok bs :: rest) :
    exec .sreset s = .next (runSteps (rmwSteps .refPwdwn (bitWord true) ++ [.mirror (.intref false)]) wSreset (.const 0)
      (State.called (writeCall s.cfg.addr Cmd.trigger wSreset) (.ok bs) rest
        { s with dev := { s.dev with gain := .two, div := .one } })) := by
  rw [exec_sreset hext, State.start, runSteps_sresetSteps_ok h]
  rfl

/-- The state at the first call of INIT: the default VREF, GAIN and DIV, and INTREF as it was (R160 step 1). -/
def State.withInitDefaults (s : State) : State := { s with dev := ⟨5 / 2, .two, .one, s.dev.intref⟩ }

/-- INIT writes the defaults; the read-modify-write of CONFIG follows, then the rest (R160). -/
theorem exec_init (s : State) :
    exec .init s = .next (runSteps
      (rmwSteps .refPwdwn (bitWord true) ++ .mirror (.intref false) :: sresetSteps false) 0 (.const 0)
      s.withInitDefaults) := by
  rw [State.withInitDefaults, ← vrefDefault_eq]; rfl

/-- INIT when neither call of its `REFPD 1` fails: how SRESET ends from the default Device State is how INIT ends, after those
two calls (R160 step 3). -/
theorem exec_init_of_sreset {s : State} {hi lo : Byte} {tl bs : List Byte} {rest as : List Reply} {d : DeviceState}
    {calls : List TraceEntry} {resp : Response} (h : s.answers = .ok (hi :: lo :: tl) :: .ok bs :: rest)
    (hs : ∀ u : State, u.cfg = s.cfg → u.dev = ⟨5 / 2, .two, .one, false⟩ → u.answers = rest →
      exec .sreset u = .next (u.after d as calls resp)) :
    exec .init s = .next (s.after d as (busR s.cfg.addr 0x03#8 (.ok (hi :: lo :: tl)) ::
      busW s.cfg.addr 0x03#8 ((hi ++ lo) ||| 0x0100#16) (.ok bs) :: calls) resp) := by
  rw [exec_init_of_refpd_ok h, hs, State.called_after, State.called_after]
  exacts [rfl, rfl, DeviceState.reset_eq, rfl]

/-! ### The statements -/

/-- Settles O34: SETGAIN and SETDIV are both answered at once. -/
theorem invalidSettingIsSilentlyIgnored : Obligations.InvalidSettingIsSilentlyIgnored := fun s _ h1 h2 =>
  ⟨_, _, exec_setgain_invalid h1 h2 s, exec_setdiv_invalid h1 h2 s, rfl, rfl, rfl, rfl⟩

/-- Settles O48: none of them has a call in the sequence of R212. -/
theorem operationsWithoutCallsCannotFail : Obligations.OperationsWithoutCallsCannotFail := by
  intro i s t h hi
  have hk : callKinds s.dev.intref i = [] := by
    obtain ⟨_, _, rfl⟩ | ⟨_, _, _, rfl⟩ | ⟨_, rfl⟩ | ⟨_, rfl⟩ | ⟨_, rfl⟩ | ⟨g, h1, h2, rfl | rfl⟩ := hi
    exacts [rfl, rfl, rfl, rfl, rfl, if_neg (not_or.2 ⟨h1, h2⟩), if_neg (not_or.2 ⟨h1, h2⟩)]
  obtain ⟨d, r, rfl, hr⟩ := exec_of_callKinds_nil hk h
  exact ⟨rfl, List.append_nil _, rfl, r, rfl, hr⟩

/-- Settles O45: the calls recorded are those the operation reports on, and none before the last has failed. -/
theorem firstFailingCallEndsOperation : Obligations.FirstFailingCallEndsOperation := by
  intro i s t new h hnew
  obtain ⟨calls, hrep⟩ := exec_reported h
  obtain ⟨_, _, _, hc⟩ := exec_called h
  obtain rfl := List.append_cancel_left (hnew.symm.trans hrep.trace)
  obtain rfl := List.append_cancel_left (hnew.symm.trans hc.trace)
  refine ⟨hc.failed, fun c e hlast he => ?failed, fun r hr hs => ?terr⟩
  case failed => exact hrep.failed e (by rw [lastError?, hlast]; exact he)
  case terr =>
    obtain ⟨e, he⟩ := hrep.terr r hr hs
    obtain ⟨c, hlast, hce⟩ := Option.bind_eq_some_iff.1 he
    obtain rfl : r = terrResp e := by simpa [hr] using (hrep.failed e he).2
    exact ⟨c, hlast, hce⟩

/-- Settles O42: each of the eight starts with the read-modify-write of its field. -/
theorem readModifyWriteErrorLeavesState : Obligations.ReadModifyWriteErrorLeavesState := by
  intro s rest i f x h
  obtain ⟨ms, hexec⟩ : ∃ ms, exec i s = .next (s.start (rmwSteps f x ++ ms) (.const 0)) := by
    simp only [List.mem_cons, Prod.mk.injEq, List.not_mem_nil, or_false] at h
    obtain ⟨rfl, rfl, rfl⟩ | ⟨rfl, rfl, rfl⟩ | ⟨rfl, rfl, rfl⟩ | ⟨rfl, rfl, rfl⟩ | ⟨rfl, rfl, rfl⟩ | ⟨rfl, rfl, rfl⟩ |
      ⟨rfl, rfl, rfl⟩ | ⟨rfl, rfl, rfl⟩ := h <;> exact ⟨_, rfl⟩
  rw [hexec]
  exact ⟨fun _ _ he h => congrArg _ (runSteps_rmw_readErr h he f x ms 0 _),
    fun _ _ _ _ h => congrArg _ (runSteps_rmw_writeErr h f x ms 0 _)⟩

/-- Settles O21: the first write fails, or the body of `REFPD 1` fails at its read or at its write. -/
theorem sresetErrorLeavesItsSteps : Obligations.SresetErrorLeavesItsSteps := by
  refine fun s b0 e r hi lo tl rest => ⟨fun h => ?trigger, fun hext hr h => ?read, fun hext h => ?write⟩
  case trigger => exact congrArg _ (runSteps_write_fail h Cmd.trigger _ wSreset _)
  case read =>
    rw [exec_sreset_of_write_ok hext h, runSteps_rmw_readErr rfl hr, State.called_after]
    rfl
  case write =>
    rw [exec_sreset_of_write_ok hext h, runSteps_rmw_writeErr rfl, State.called_after, Field.set_refPwdwn_true]
    rfl

/-- Settles O43: the body of `REFPD 1` fails at its read or at its write, or what follows it fails as SRESET does (O21). -/
theorem initErrorLeavesItsSteps : Obligations.InitErrorLeavesItsSteps := by
  intro s r e h1 l1 h2 l2 t1 t2 b1 b2 rest
  refine ⟨fun hr h => ?read, fun h => ?write, fun h => ?trigger, fun hr h => ?sresetRead, fun h => ?sresetWrite⟩
  case read =>
    rw [exec_init, runSteps_rmw_readErr (s := s.withInitDefaults) h hr]
    rfl
  case write =>
    rw [exec_init, runSteps_rmw_writeErr (s := s.withInitDefaults) h, Field.set_refPwdwn_true]
    rfl
  case trigger =>
    refine exec_init_of_sreset h fun u hcfg hdev hans => ?_
    obtain ⟨htrigger, _, _⟩ := sresetErrorLeavesItsSteps u b2 e r h2 l2 t2 rest
    rw [htrigger hans, hcfg, hdev]
  case sresetRead =>
    refine exec_init_of_sreset h fun u hcfg hdev hans => ?_
    obtain ⟨_, hread, _⟩ := sresetErrorLeavesItsSteps u b2 e r h2 l2 t2 rest
    rw [hread (by rw [hdev]) hr hans, hcfg, hdev]
  case sresetWrite =>
    refine exec_init_of_sreset h fun u hcfg hdev hans => ?_
    obtain ⟨_, _, hwrite⟩ := sresetErrorLeavesItsSteps u b2 e r h2 l2 t2 rest
    rw [hwrite (by rw [hdev]) hans, hcfg, hdev]

end Sys2Proof.Machine
end

section
/-! SUPPORT. The reset and hazards family: a block that waits for the transport. Without a reply its step changes nothing
(`step_of_stalled`); a reset ends it (`step_of_resetLine`); and where no call fails nothing is left to wait for: a run makes
all of its calls and is over (`runSteps_completed`). -/

namespace Sys2Proof.Machine

/-! ### Hardware reset -/

theorem step_of_resetLine {s : State} (h : s.resetLine = true) : step s = .next s.hardReset := if_pos h

/-! ### A stalled call (R206) -/

/-- Without a reply, steps that begin with a call wait for it. -/
theorem runSteps_call_nil {m : Micro} (hm : m.isCall = true) {s : State} (ha : s.answers = []) (ms : List Micro)
    (reg : U16) (ret : Ret) : runSteps (m :: ms) reg ret s = s.wait reg (m :: ms) ret := by
  cases m with
  | read cmd => exact runSteps_read_nil ha
  | write cmd => exact runSteps_write_nil ha
  | _ => cases hm

theorem State.wait_eq_self {s : State} {reg : U16} {ms : List Micro} {ret : Ret} (hp : s.phase = .busy reg ms ret) :
    s.wait reg ms ret = s := by
  rw [State.wait, ← hp]

/-- A block that waits for a call that has not returned steps to the very same state. -/
theorem step_of_stalled {s : State} {reg : U16} {m : Micro} {ms : List Micro} {ret : Ret} (hl : s.resetLine = false)
    (hp : s.phase = .busy reg (m :: ms) ret) (hm : m.isCall = true) (ha : s.answers = []) : step s = .next s := by
  rw [step_of_busy hl hp, runSteps_call_nil hm ha, State.wait_eq_self hp]

/-- A state that steps to itself is never left. -/
theorem run_of_step_eq_self {s : State} (h : step s = .next s) (k : Nat) : Host.Core.run core k s = .next s := by
  have hstep : core.step s = .next s := h
  induction k with
  | zero => rfl
  | succ k ih => simp only [Host.Core.run, hstep]; exact ih

/-! ### A run that waits -/

theorem Ran.exists_response {s t : State} (h : Ran s t) (hp : t.phase = .idle) :
    ∃ r, t.responses = s.responses ++ [r] := by
  obtain ⟨_, hr⟩ | ⟨hbusy, _⟩ := h.ended
  · exact hr
  · rw [hp] at hbusy; cases hbusy

theorem Ran.responses_of_not_idle {s t : State} (h : Ran s t) (hp : t.phase ≠ .idle) : t.responses = s.responses := by
  obtain ⟨hidle, _⟩ | ⟨_, hr, _⟩ := h.ended
  · exact absurd hidle hp
  · exact hr

/-! ### An operation none of whose calls fails (R212) -/

/-- From `s` to `t` an operation has made `n` calls, taken a reply for each, and been answered, not with TERR. -/
structure Completed (n : Nat) (s t : State) : Prop where
  phase : t.phase = .idle
  trace : t.trace.length = s.trace.length + n
  answers : t.answers = s.answers.drop n
  response : ∃ r, t.responses = s.responses ++ [r] ∧ r.status ≠ .terr

/-- An operation that ends without a call, and not with TERR. -/
theorem Completed.of_after {s : State} {d : DeviceState} {r : Response} (hr : r.status ≠ .terr) :
    Completed 0 s (s.after d s.answers [] r) :=
  ⟨rfl, by simp, rfl, r, rfl, hr⟩

/-- One call more, before the others. -/
theorem Completed.of_called {n : Nat} {s t : State} {c : TxCall} {r : Reply} {rest : List Reply}
    (h : s.answers = r :: rest) (ht : Completed n (s.called c r rest) t) : Completed (n + 1) s t where
  phase := ht.phase
  trace := by rw [ht.trace, State.called_trace, List.length_append, List.length_singleton]; omega
  answers := by simpa [h] using ht.answers
  response := ht.response

/-- There is a reply for each of the calls, and none is a failure of its call. -/
structure NoneFails (kinds : List CallKind) (replies : List Reply) : Prop where
  enough : kinds.length ≤ replies.length
  ok : ∀ c ∈ kinds.zip replies, c.1.error? c.2 = none

section
variable {k : CallKind} {ks : List CallKind} {r : Reply} {replies rest : List Reply}

theorem NoneFails.replies_ne_nil (h : NoneFails (k :: ks) replies) : replies ≠ [] := by
  rintro rfl
  exact Nat.not_succ_le_zero _ h.enough

theorem NoneFails.head (h : NoneFails (k :: ks) replies) (ha : replies = r :: rest) : k.error? r = none := by
  subst ha
  exact h.ok (k, r) List.mem_cons_self

theorem NoneFails.tail (h : NoneFails (k :: ks) replies) (ha : replies = r :: rest) : NoneFails ks rest := by
  subst ha
  exact ⟨Nat.le_of_succ_le_succ h.enough, fun c hc => h.ok c (List.mem_cons_of_mem _ hc)⟩

end

/-- A run none of whose calls fails makes all of them and is over. -/
theorem runSteps_completed (ms : List Micro) (reg : U16) (ret : Ret) (s : State)
    (h : NoneFails (ms.filterMap Micro.kind?) s.answers) :
    Completed (ms.filterMap Micro.kind?).length s (runSteps ms reg ret s) := by
  refine runSteps_induct (P := fun ms _ s t => NoneFails (ms.filterMap Micro.kind?) s.answers →
    Completed (ms.filterMap Micro.kind?).length s t) ret
    ?nil ?load ?modify ?mirror ?readWait ?readOk ?readErr ?writeWait ?writeOk ?writeErr ms reg s h
  case nil => exact fun _ s _ => by rw [State.respondOk, respond_eq_after]; exact .of_after nofun
  case load => exact fun _ _ _ _ _ ih => ih
  case modify => exact fun _ _ _ _ _ _ ih => ih
  case mirror => exact fun _ _ _ _ _ ih h => ⟨(ih h).phase, (ih h).trace, (ih h).answers, (ih h).response⟩
  case readWait => exact fun _ _ _ _ ha h => absurd ha h.replies_ne_nil
  case readOk => exact fun _ _ _ _ _ _ _ _ ha _ ih h => .of_called ha (ih (h.tail ha))
  case readErr =>
    intro cmd ms reg s r rest e ha he h
    cases (h.head ha).symm.trans (Reply.readResult_eq_error_iff.1 he)
  case writeWait => exact fun _ _ _ _ ha h => absurd ha h.replies_ne_nil
  case writeOk => exact fun _ _ _ _ _ _ _ ha _ ih h => .of_called ha (ih (h.tail ha))
  case writeErr =>
    intro cmd ms reg s r rest e ha he h
    cases (h.head ha).symm.trans (Reply.writeResult_eq_error_iff.1 he)

/-- An instruction none of whose calls fails makes all of them and is over. -/
theorem exec_completed {i : Instr} {s t : State} (h : exec i s = .next t)
    (hn : NoneFails (callKinds s.dev.intref i) s.answers) : Completed (callCount s.dev.intref i) s t := by
  rw [callCount]
  obtain ⟨hk, _⟩ | ⟨ms, ret, hk, hr⟩ := exec_next_shape h
  · obtain ⟨_, _, rfl, hs⟩ := exec_of_callKinds_nil hk h
    rw [hk]
    exact .of_after hs
  · cases h.symm.trans (hr s rfl rfl)
    rw [← hk] at hn ⊢
    exact runSteps_completed ms 0 ret s hn

/-- VREF positive is all that an instruction can need to reach a next state (R134). -/
theorem exists_exec_next {i : Instr} {s : State} (h : ∀ a, i = .v2c a ∨ i = .setv a → 0 < s.dev.vref) :
    ∃ t, exec i s = .next t := by
  obtain ht | ⟨_, hv, a, hi⟩ := exec_cases i s
  · exact ht
  · exact absurd (h a hi) hv.not_gt

/-! ### The statements -/

/-- Settles O49: no failing call leaves the instruction a way to wait or to end before its last call. -/
theorem transactionCounts : Obligations.TransactionCounts := by
  intro i s hv henough hok
  obtain ⟨t, ht⟩ := exists_exec_next hv
  obtain ⟨hphase, htrace, hans, r, hresp, hr⟩ := exec_completed ht ⟨henough, hok⟩
  exact ⟨t, r, ht, hphase, htrace, hans, hresp, hr⟩

/-- Settles O8: the next step is the reset, which records the call that the phase stands at. -/
theorem resetEndsOperation : Obligations.ResetEndsOperation := by
  refine fun s h => ⟨_, step_of_resetLine h, DeviceState.reset_eq, rfl, rfl, rfl, rfl, rfl, rfl,
    fun hp => ?idle, fun reg cmd ms ret hp => ?read, fun reg cmd ms ret hp => ?write⟩
  case idle => rw [State.hardReset_trace, hp]; exact List.append_nil _
  case read => rw [State.hardReset_trace, hp]; rfl
  case write => rw [State.hardReset_trace, hp]; rfl

/-- Settles O9: the step of a stalled block leads nowhere else, and the step of an asserted reset is the reset. -/
theorem stalledCallHangsTheBlock : Obligations.StalledCallHangsTheBlock := fun _ _ _ _ _ hl hp hm ha =>
  ⟨run_of_step_eq_self (step_of_stalled hl hp hm ha), _, step_of_resetLine rfl, rfl, rfl⟩

/-- Settles O51: without replies no call is recorded (O50), so an instruction that is over had none to make. -/
theorem withoutReplyOperationWaits : Obligations.WithoutReplyOperationWaits := by
  intro i s t ha h
  obtain ⟨new, htrace, _, hreplies, _, _, hcomplete⟩ := repliesAreTakenInOrder i s t h
  obtain rfl : new = [] := by simpa [ha] using hreplies
  refine ⟨by simpa using htrace, ⟨fun hp => (hcomplete hp (by simp)).symm, fun hcount => ?idle⟩,
    (exec_ran h).responses_of_not_idle⟩
  case idle =>
    obtain ⟨_, _, rfl, _⟩ := exec_of_callKinds_nil (List.length_eq_zero_iff.1 hcount) h
    rfl

/-- Settles O53: the step of a block in progress is a run. -/
theorem busyBlockAcceptsNothing : Obligations.BusyBlockAcceptsNothing := by
  intro s t reg ms ret hl hp h
  cases (step_of_busy hl hp).symm.trans h
  have hran := runSteps_spec ms reg ret s
  exact ⟨hran.requests, hran.exists_response, hran.responses_of_not_idle⟩

end Sys2Proof.Machine
end
